-- ==== Sys2Proof/Word.lean ====
section
/-! DEFINITION. The word types of the block (00_scope.md R8, R11, R16; 30_encoding.md R80): 8-bit data, 16-bit
addresses, ports and host key identifiers, 32-bit transaction words. All values are unsigned. -/

namespace Sys2Proof

/-- A data byte, u8 (R8, R16). -/
abbrev Byte := BitVec 8

/-- A memory address or a port address, u16 (R8, R84). `a + b` on it is the `+16` of R16. -/
abbrev Addr := BitVec 16

/-- A host key identifier, 16 bits (R11). -/
abbrev HostKey := BitVec 16

/-- A transaction word, 32 bits (R80). -/
abbrev Word := BitVec 32

end Sys2Proof
end

