-- ==== Sys2Proof/Config.lean ====
section
/-! DEFINITION. What is fixed for one machine: the constants of 00_scope.md R8 to R13, the parameters of R14 as one
plain record, what the external agents do as data, and the model's free values. The parameters' values are never chosen
here for a claim: State holds a Config, so a claim about every state is one about every configuration (log 1). -/

namespace Sys2Proof

/-- A pixel is one of two symbols (42_glyph_atlas.md R175): `fg` is black, `bg` is white. -/
inductive Pixel where
  | fg
  | bg
  deriving DecidableEq, Repr, Inhabited

/-- The opposite pixel (R172). -/
def Pixel.invert : Pixel → Pixel
  | .fg => .bg
  | .bg => .fg

/-- What REDRAW does with a character code of 0x80 or more (43_frame.md R202). -/
inductive HighCodePolicy where
  | unchanged
  | mask7
  | blank
  deriving DecidableEq, Repr

/-! ## What the external agents do (00_scope.md R6) -/

/-- One engine step (43_frame.md R192), from its next transaction on: the transactions it issues, in order, each with what
follows it, and how it ends. Any choice it makes on a result is an `ifResult` after the transaction that returned it. -/
inductive EngineStep where
  /-- The step ends, and this number is the engine's state after it. -/
  | done (next : Nat)
  /-- The step never ends from here on: a hang of the run (R192; 70_reset_and_hazards.md R273). -/
  | hang
  | fetch (a : Addr) (k : EngineStep)
  | read (a : Addr) (k : EngineStep)
  | write (a : Addr) (v : Byte) (k : EngineStep)
  | portIn (p : Addr) (k : EngineStep)
  | portOut (p : Addr) (v : Byte) (k : EngineStep)
  /-- Goes on with `t` if the latest result of this engine step is `v`, else with `e`. -/
  | ifResult (v : Byte) (t e : EngineStep)
  deriving DecidableEq, Repr, Inhabited

/-- The events a poll returns (43_frame.md R193). -/
inductive HostEvent where
  | keyDown (k : HostKey)
  | keyUp (k : HostKey)
  | quit
  /-- Any other event, under a number of the host's. -/
  | other (code : Nat)
  deriving DecidableEq, Repr

/-- One drain as the host answers it (60_exceptions.md R245): the events its polls return, in order, before none, and the
host's state after it. -/
structure HostDrain where
  events : List HostEvent
  next : Nat
  deriving DecidableEq, Repr, Inhabited

namespace Config

/-- `MEM_SIZE` (R8). -/
def memSize : Nat := 0x10000
/-- `ROM_SIZE`: one copy of the ROM (R9). -/
def romSize : Nat := 0x2000
/-- `ROM_WINDOW_END`: the RAM boundary (R9). -/
def ramBoundary : Addr := 0x4000#16
/-- The distance from a primary ROM cell to its ghost (R9). -/
def ghostOffset : Addr := 0x2000#16
/-- `FLOAT_BASE` (R10). -/
def floatBase : Addr := 0x8000#16
/-- `FLOAT_MASK` (R10). -/
def floatMask : Addr := 0x7FFF#16
/-- `FLOAT_VALID_BIT` (R10). -/
def floatValidBit : Nat := 6
/-- `COL_MASK` (R11). -/
def colMask : Byte := 0x1F#8
/-- `DF_ROWS` (R12). -/
def dfRows : Nat := 24
/-- `DF_COLS` (R12). -/
def dfCols : Nat := 32
/-- `DF_TERM` (R12): the terminator, which the walker skips and never reads (43_frame.md R200). -/
def dfTerm : Byte := 0x76#8
/-- `DF_STRIDE` (R12). -/
def dfStride : Nat := 33
/-- `GLYPHS` (R13). -/
def glyphs : Nat := 64
/-- `ATLAS_CELLS` (R13). -/
def atlasCells : Nat := 128
/-- Pixels on a side of a cell (R13): 8 source pixels, doubled. -/
def cellSide : Nat := 16

/-- FREE VALUE (log 7): the pixel at screen row `y`, column `x` of a screen cell that no REDRAW has drawn
(10_state.md R28: "each pixel holds an arbitrary value (a draw) until a REDRAW writes it"). It has no body, so nothing
can be proved of its value. -/
opaque undrawnPixel : Nat → Nat → Pixel

/-- FREE VALUE (log 13): the step of an engine in a state that its table does not list. It has no body, so it stands for
any engine at all: "the block assumes nothing of them" (43_frame.md R192). -/
opaque freeEngineStep : Nat → EngineStep

/-- FREE VALUE (log 15): the drain of a host in a state that its table does not list. It has no body, so it stands for any
host that keeps the duty of 60_exceptions.md R245. -/
opaque freeDrain : Nat → HostDrain

end Config

/-- `ROM_IMAGE` (R14) as data: its size in bytes and the bytes that are listed; a byte that is not listed is 0x00
(log 3). A size other than 8192 is an ill-formed configuration (60_exceptions.md R238). -/
structure RomImage where
  size : Nat
  bytes : List (Addr × Byte)
  deriving DecidableEq, Repr

/-- The parameters of R14, but for the agents ENGINE and HOST, which State holds beside it (log 13, log 15). -/
structure Config where
  /-- `ROM_IMAGE` -/
  romImage : RomImage
  /-- `ROM_PATCH`: (offset, byte) entries (40_bus.md R114). -/
  romPatch : List (Addr × Byte)
  /-- `DFILE_PTR_ADDR` -/
  dfilePtrAddr : Addr
  /-- `CHARSET_BASE` -/
  charsetBase : Addr
  /-- `STEPS_PER_FRAME` -/
  stepsPerFrame : Nat
  /-- `HIGH_CODE_POLICY` -/
  highCodePolicy : HighCodePolicy
  /-- `ROW_BASE_OFFSET` -/
  rowBaseOffset : Addr
  /-- `KEYMAP`: the mapped keys; a key that is not listed is unmapped, and the first entry of a key counts (log 4). -/
  keymap : List (HostKey × Byte)
  /-- `DELETE_KEY` -/
  deleteKey : HostKey
  /-- `ROW_RESET` -/
  rowReset : Byte
  /-- `NO_ROW_VALUE` -/
  noRowValue : Byte
  /-- `OTHER_PORT_VALUE` -/
  otherPortValue : Byte
  deriving DecidableEq, Repr

/-- The configuration of State.reset: the defaults of R14 (and 92 D11) where the spec gives one, else zero or empty
(DESIGN CHOICE, log 2). The patch writes the zeros the image already holds. -/
def Config.default : Config where
  romImage := { size := Config.romSize, bytes := [] }
  romPatch := [(0x0000#16, 0x00#8), (0x0001#16, 0x00#8)]
  dfilePtrAddr := 0x0000#16
  charsetBase := 0x0000#16
  stepsPerFrame := 0
  highCodePolicy := .unchanged
  rowBaseOffset := 0x0000#16
  keymap := []
  deleteKey := 0x0000#16
  rowReset := 0xFF#8
  noRowValue := 0xFF#8
  otherPortValue := 0xFF#8

end Sys2Proof
end

