-- ==== Sys2Proof/Syntax.lean ====
section
/-! DEFINITION. The operations as data: one constructor of `Instr` per row of spec/opcode_table.json (30_encoding.md
R81, R82), the two refusals of decoding (R83), the agents that issue operations, and one line of the textual form
with its pseudo-operations (R95, R96). -/

namespace Sys2Proof

/-- The twelve operations with the fields each uses (R82). Every field has exactly the width the word gives it, so no
term of this type is ill-formed. -/
inductive Instr where
  | fetch (a : Addr)
  | read (a : Addr)
  | write (a : Addr) (v : Byte)
  | portIn (p : Addr)
  | portOut (p : Addr) (v : Byte)
  | keyDown (k : HostKey)
  | keyUp (k : HostKey)
  | kbReset
  | setup
  | atlasBuild
  | redraw
  | frame
  deriving DecidableEq, Repr

/-- Why a word spells no operation (R83). -/
inductive DecodeError where
  | reservedOp
  | reservedBits
  deriving DecidableEq, Repr

/-- The issuers of the "issued by" column of R81. -/
inductive Issuer where
  | engine
  | drain
  | boot
  | redraw
  | frame
  | orchestrator
  deriving DecidableEq, Repr

/-- The mnemonics of the textual form: the twelve of R81 and the four pseudo-operations of R96. -/
inductive Mnemonic where
  | fetch | read | write | portIn | portOut | keyDown | keyUp | kbReset | setup | atlasBuild | redraw | frame
  | scanRow | write16 | tap | boot
  deriving DecidableEq, Repr

/-- One line of the textual form (R95): a mnemonic and its literals, not yet checked against their fields. -/
structure AsmLine where
  mnemonic : Mnemonic
  operands : List Nat
  deriving DecidableEq, Repr

end Sys2Proof
end

