-- ==== Sys2Proof/Decode.lean ====
section
/-! DEFINITION. The transaction word (30_encoding.md R80 to R83): a total decoder from 32-bit words to an operation or
one of two refusals, the encoder, and the decoder as the host asks for it. -/

namespace Sys2Proof

/-! ## The fields of a word (R80) -/

/-- `OP = w[31:28]`. -/
def opField (w : Word) : BitVec 4 := w.extractLsb' 28 4
/-- `RSV = w[27:24]`. -/
def rsvField (w : Word) : BitVec 4 := w.extractLsb' 24 4
/-- `A = w[23:8]`. -/
def aField (w : Word) : BitVec 16 := w.extractLsb' 8 16
/-- `D = w[7:0]`. -/
def dField (w : Word) : BitVec 8 := w.extractLsb' 0 8

/-- An operation whose other conditions on the word hold, or `Refused(ReservedBits)` (R83). -/
def requireZero (unusedAreZero : Bool) (i : Instr) : Except DecodeError Instr :=
  if unusedAreZero then .ok i else .error .reservedBits

/-- The decoder. It checks OP first, then RSV, then the unused fields (R83, 60_exceptions.md R237). -/
def decode (w : Word) : Except DecodeError Instr :=
  let rsv0 := rsvField w == 0
  let a := aField w
  let d := dField w
  let d0 := rsv0 && d == 0
  let none0 := d0 && a == 0
  match (opField w).toNat with
  | 0x0 => requireZero d0 (.fetch a)
  | 0x1 => requireZero d0 (.read a)
  | 0x2 => requireZero rsv0 (.write a d)
  | 0x3 => requireZero d0 (.portIn a)
  | 0x4 => requireZero rsv0 (.portOut a d)
  | 0x5 => requireZero d0 (.keyDown a)
  | 0x6 => requireZero d0 (.keyUp a)
  | 0x7 => requireZero none0 .kbReset
  | 0x8 => requireZero none0 .setup
  | 0x9 => requireZero none0 .atlasBuild
  | 0xA => requireZero none0 .redraw
  | 0xB => requireZero none0 .frame
  | _ => .error .reservedOp

/-- A word from its three fields, RSV being 0 (R80). -/
def wordOf (op : BitVec 4) (a : BitVec 16) (d : BitVec 8) : Word := op ++ 0#4 ++ a ++ d

/-- The encoder (R80 to R82). -/
def encode : Instr → Word
  | .fetch a => wordOf 0x0#4 a 0#8
  | .read a => wordOf 0x1#4 a 0#8
  | .write a v => wordOf 0x2#4 a v
  | .portIn p => wordOf 0x3#4 p 0#8
  | .portOut p v => wordOf 0x4#4 p v
  | .keyDown k => wordOf 0x5#4 k 0#8
  | .keyUp k => wordOf 0x6#4 k 0#8
  | .kbReset => wordOf 0x7#4 0#16 0#8
  | .setup => wordOf 0x8#4 0#16 0#8
  | .atlasBuild => wordOf 0x9#4 0#16 0#8
  | .redraw => wordOf 0xA#4 0#16 0#8
  | .frame => wordOf 0xB#4 0#16 0#8

/-- The transaction word whose low `nbits` bits are those of `w` and whose bits above are 0. A word is given whole (no
memory holds it), so no byte order arises. -/
def tableWord (nbits w : Nat) : Word := BitVec.ofNat 32 (w % 2 ^ nbits)

/-- What the decoder reads from an opcode-table word. -/
def decodeTableWord (nbits w : Nat) : Option Instr :=
  match decode (tableWord nbits w) with
  | .ok i => some i
  | .error _ => none

end Sys2Proof
end

