-- ==== Sys2Proof/Machine/Operands.lean ====
section
/-! DEFINITION. Every operand form of the block: configuration look-ups and the checks of 60_exceptions.md R238, the
floating-bus filter (30_encoding.md R93), the port address (R84 to R86), the scan-code byte (R87), the character code
(R89), the glyph byte (R90), the display-file pointer and addresses (R91, R92), and who may issue what (R81). -/

namespace Sys2Proof.Machine

/-! ## Look-ups in the configuration -/

/-- `ROM_IMAGE[o]`. -/
def romByte (cfg : Config) (o : Addr) : Byte :=
  (cfg.romImage.bytes.lookup o).getD 0x00#8

/-- `KEYMAP(k)` (10_state.md R25): none is unmapped. -/
def keymapEntry (cfg : Config) (k : HostKey) : Option Byte :=
  cfg.keymap.lookup k

/-- The byte of row `r` of glyph `g` (30_encoding.md R90): `ROM_IMAGE[CHARSET_BASE + 8*g + r]`. -/
def glyphByte (cfg : Config) (g r : Nat) : Byte :=
  romByte cfg (cfg.charsetBase + BitVec.ofNat 16 (8 * g + r))

/-! ## The scan-code byte -/

/-- The row number of a scan-code byte, `e[7:5]` (30_encoding.md R87). -/
def scanRow (e : Byte) : Fin 8 := (e.extractLsb' 5 3).toFin

/-- The column mask of a scan-code byte, `e[4:0]`, zero-extended (R87). -/
def scanMask (e : Byte) : Byte := e &&& Config.colMask

/-- Exactly one bit is set in `e[4:0]` (41_keyboard.md R147). -/
def isOneHot (e : Byte) : Bool :=
  [0x01#8, 0x02#8, 0x04#8, 0x08#8, 0x10#8].contains (scanMask e)

/-! ## Configuration well-formedness (60_exceptions.md R238) -/

/-- `ROM_IMAGE` has exactly 8192 bytes. -/
def romImageOk (cfg : Config) : Bool := cfg.romImage.size == Config.romSize

/-- `ROM_PATCH` is two entries with distinct offsets in 0x0000..0x1FFF (40_bus.md R114). -/
def romPatchOk (cfg : Config) : Bool :=
  match cfg.romPatch with
  | [(o₁, _), (o₂, _)] => decide (o₁.toNat < Config.romSize) && decide (o₂.toNat < Config.romSize) && o₁ != o₂
  | _ => false

/-- `CHARSET_BASE + 0x200 <= 0x2000` (42_glyph_atlas.md R176). -/
def charsetOk (cfg : Config) : Bool := decide (cfg.charsetBase.toNat + 0x200 ≤ Config.romSize)

/-- Every mapped `KEYMAP` value is one-hot in bits 4..0 (41_keyboard.md R147). -/
def keymapOk (cfg : Config) : Bool :=
  cfg.keymap.all fun entry => (keymapEntry cfg entry.1).all isOneHot

/-- The configuration is well-formed (R238). Its fifth condition, that the policy is one of three, holds by type. -/
def configOk (cfg : Config) : Bool :=
  romImageOk cfg && romPatchOk cfg && charsetOk cfg && keymapOk cfg

/-! ## Memory addresses -/

/-- The floating-bus filter (30_encoding.md R93): a byte with bit 6 clear becomes 0x00. -/
def floatFilter (b : Byte) : Byte := if b.getLsbD Config.floatValidBit then b else 0x00#8

/-- The ROM window, which WRITE leaves alone (20_memory.md R55). -/
def inRomWindow (a : Addr) : Bool := decide (a < Config.ramBoundary)

/-- The floating-fetch window, 0x8000 and above (20_memory.md R52). -/
def inFloatWindow (a : Addr) : Bool := decide (Config.floatBase ≤ a)

/-- The pointer `{hi, lo}` (30_encoding.md R91). -/
def pointerOf (lo hi : Byte) : Addr := hi ++ lo

/-! ## Port addresses -/

/-- The keyboard answers the ports whose bit 0 is 0 (30_encoding.md R84). -/
def isKeyboardPort (p : Addr) : Bool := !p.getLsbD 0

/-- The row-select byte `port[15:8]` (R85). -/
def rowSelectByte (p : Addr) : Byte := p.extractLsb' 8 8

/-- The row a row-select byte selects: the least bit position that holds 0 (R86). -/
def rowSelect (sel : Byte) : Option (Fin 8) :=
  [0, 1, 2, 3, 4, 5, 6, 7].find? fun i : Fin 8 => !sel.getLsbD i

/-! ## Character codes -/

/-- The atlas cell of a code below 0x80, and of `c & 0x7F` for the others (30_encoding.md R89, 43_frame.md R202). -/
def cellIndex (c : Byte) : Fin 128 := (c.extractLsb' 0 7).toFin

/-- A code that names no cell (R89). -/
def isHighCode (c : Byte) : Bool := decide (0x80#8 ≤ c)

/-- The address of the code of display row `r`, column `k`, in a display file at `base` (30_encoding.md R92). The
walker computes addresses by counting; that it meets this one is a statement. -/
def codeAddr (base : Addr) (r k : Nat) : Addr := base + BitVec.ofNat 16 (Config.dfStride * r + k)

/-- The pixel rectangle (x, y, width, height) of atlas cell `c` on the 2048 by 16 atlas surface (42_glyph_atlas.md R173). -/
def atlasRect (c : Nat) : Nat × Nat × Nat × Nat := (Config.cellSide * c, 0, Config.cellSide, Config.cellSide)

/-- The pixel rectangle of display row `row`, column `col`, on the 512 by 384 screen (10_state.md R28). -/
def screenRect (row col : Nat) : Nat × Nat × Nat × Nat :=
  (Config.cellSide * col, Config.cellSide * row, Config.cellSide, Config.cellSide)

/-! ## Issuers -/

/-- The "issued by" column of 30_encoding.md R81. -/
def issuers : Instr → List Issuer
  | .fetch _ => [.engine]
  | .read _ => [.engine, .redraw]
  | .write _ _ => [.engine]
  | .portIn _ => [.engine]
  | .portOut _ _ => [.engine]
  | .keyDown _ => [.drain]
  | .keyUp _ => [.drain]
  | .kbReset => [.boot]
  | .setup => [.boot]
  | .atlasBuild => [.boot]
  | .redraw => [.frame]
  | .frame => [.orchestrator]

end Sys2Proof.Machine
end

