-- ==== Sys2Proof/Machine/State.lean ====
section
/-! DEFINITION. The state of the block as plain data (10_state.md R20 to R37), the inputs of the external agents
(00_scope.md R6), the reasons a step stops, and the state at power-on (70_reset_and_hazards.md R260). -/

namespace Sys2Proof.Machine

/-! ## Pixels -/

/-- One 16 by 16 image: `img[y][x]`. -/
abbrev CellImage := Vector (Vector Pixel 16) 16

/-- The 128 cells of the atlas (R27). -/
abbrev Atlas := Vector CellImage 128

/-- One of the 24 by 32 cells of the screen (R28). -/
inductive ScreenCell where
  /-- No REDRAW has drawn the cell; its pixels are the free value `Config.undrawnPixel` (log 7). -/
  | undrawn
  | drawn (img : CellImage)
  deriving DecidableEq, Repr

/-- The screen, by cell; the cell of display row r, column k is number 32*r + k (R28). -/
abbrev Screen := Vector ScreenCell 768

/-! ## Memory -/

/-- The cells of memory that hold a byte other than 0x00, addresses rising (R21). -/
abbrev Memory := List Host.Cell

/-! ## Outcomes -/

/-- The reasons of `Fault` (60_exceptions.md R231). -/
inductive FaultReason where
  /-- Memory has no value yet. -/
  | beforeSetup
  /-- The atlas has no value yet. -/
  | atlasNotBuilt
  deriving DecidableEq, Repr

/-- The reasons of `Refused` (R231). -/
inductive RefusedReason where
  | reservedOp
  | reservedBits
  | badConfig
  | repeatedSetup
  | terminal
  deriving DecidableEq, Repr

/-- A sticky outcome (R233). -/
inductive Stop where
  | fault (r : FaultReason)
  | refused (r : RefusedReason)
  deriving DecidableEq, Repr

/-- What `fault` records (10_state.md R37): the outcome and the transaction word that met it (R231); the
configuration check of boot meets no word (log 17). -/
structure StopRecord where
  reason : Stop
  word : Option Word
  deriving DecidableEq, Repr

/-- What an operation ended with (00_scope.md R15), as its issuer is told it (log 9). -/
inductive Report where
  /-- No operation has run. -/
  | nothing
  /-- A result: one byte. -/
  | value (v : Byte)
  /-- Done, with no result. -/
  | done
  /-- `Fault` or `Refused`. -/
  | stopped (r : Stop)
  /-- `Failed(SetupFailure)` (R232). -/
  | setupFailure
  deriving DecidableEq, Repr

/-! ## Sequencing -/

/-- The orchestrator's phase (10_state.md R29). -/
inductive Phase where
  | init
  | running
  | quit
  | failed
  deriving DecidableEq, Repr

/-- The next step of the boot sequence (70_reset_and_hazards.md R261), or the frame loop that follows it (log 11). -/
inductive BootStage where
  | checkConfig
  | setup
  | kbReset
  | screenSurface
  | atlasBuild
  | atlasSurface
  | engineReset
  | loop
  deriving DecidableEq, Repr

/-! ## The external agents -/

/-- The agent `ENGINE` (10_state.md R36, 43_frame.md R192): its state, and for the states that are listed the step it takes
in each; in a state that is not listed its step is the free value `Config.freeEngineStep` (log 13). -/
structure EngineAgent where
  state : Nat
  steps : List (Nat × EngineStep)
  deriving DecidableEq, Repr

/-- The agent `HOST` (60_exceptions.md R245): its answers to the two surface creations of boot, its state, and for the
states that are listed what the polls of a drain return in each; in a state that is not listed that is the free value
`Config.freeDrain` (log 15). -/
structure HostAgent where
  screenSurfaceOk : Bool
  atlasSurfaceOk : Bool
  state : Nat
  drains : List (Nat × HostDrain)
  deriving DecidableEq, Repr

/-! ## The state -/

structure State where
  /-- R21 -/
  mem : Memory
  /-- R22 -/
  setupDone : Bool
  /-- R23: the keyboard row table, active-low. -/
  rows : Vector Byte 8
  /-- R27 -/
  atlas : Atlas
  /-- R27 -/
  atlasBuilt : Bool
  /-- R28 -/
  screen : Screen
  /-- R29 -/
  phase : Phase
  /-- R30 -/
  quit : Bool
  /-- R31: the frames presented, oldest first. -/
  presented : List Screen
  /-- R37 -/
  fault : Option StopRecord
  /-- The configuration (00_scope.md R14); no operation writes it (R20, log 1). -/
  cfg : Config
  /-- The agent `ENGINE` (R36, log 13). -/
  engine : EngineAgent
  /-- The agent `HOST` (R37, log 15). -/
  host : HostAgent
  /-- The transaction words issued from outside that have not run, oldest first (log 10). -/
  pending : List Word
  /-- How far boot has gone (log 11). -/
  stage : BootStage
  /-- What the latest operation ended with (log 9). -/
  last : Report
  deriving DecidableEq, Repr

/-- Why a step has no next state. -/
inductive Fault where
  /-- Raised by every operation and by step in a state whose `fault` is set: "from then on no operation has a step"
  (60_exceptions.md R233). Safe. -/
  | sticky (r : Stop)
  /-- Raised by FRAME where an engine step of its slice never ends: stuck, the run never ends (43_frame.md R192,
  70_reset_and_hazards.md R273, 93_implementation_defined.md I16; log 13). Safe. -/
  | engineHang
  deriving DecidableEq, Repr

/-- Why a step has no meaning. -/
inductive Refusal where
  /-- Raised by an arm of exec whose instruction has no meaning yet; no arm does. Safe. -/
  | notModelled (mnemonic : String)
  /-- Raised by step when the run has ended (`phase` is Quit or Failed) and no word has been issued: no operation
  follows (43_frame.md R198, R208; log 12). Safe. -/
  | runOver
  deriving DecidableEq, Repr

/-- The machine at power-on under a configuration and given agents (R260 and the reset summary of 10_state.md). -/
def State.powerOn (cfg : Config) (engine : EngineAgent) (host : HostAgent) : State where
  mem := []
  setupDone := false
  rows := Vector.replicate 8 cfg.rowReset
  atlas := Vector.replicate 128 (Vector.replicate 16 (Vector.replicate 16 .bg))
  atlasBuilt := false
  screen := Vector.replicate 768 .undrawn
  phase := .init
  quit := false
  presented := []
  fault := none
  cfg := cfg
  engine := engine
  host := host
  pending := []
  stage := .checkConfig
  last := .nothing

/-- An engine that issues nothing in any step (DESIGN CHOICE, log 14). -/
def EngineAgent.idle : EngineAgent := { state := 0, steps := [(0, .done 0)] }

/-- A host whose surfaces succeed and that sends no event in any drain (DESIGN CHOICE, log 16). -/
def HostAgent.quiet : HostAgent :=
  { screenSurfaceOk := true, atlasSurfaceOk := true, state := 0, drains := [(0, { events := [], next := 0 })] }

/-- The machine right after reset: power-on with the default configuration (log 2), an engine that issues nothing
(log 14) and a quiet host (log 16). -/
def State.reset : State := State.powerOn Config.default EngineAgent.idle HostAgent.quiet

end Sys2Proof.Machine
end

