-- ==== Sys2Proof/Machine/Flags.lean ====
section
/-! DEFINITION. The block has no flags or condition codes (10_state.md R34). What operations test instead are its one-bit
statuses and the common checks of 60_exceptions.md R237, written here. -/

namespace Sys2Proof.Machine

/-- `phase` is `Quit` or `Failed` (R236). -/
def Phase.isTerminal : Phase → Bool
  | .init => false
  | .running => false
  | .quit => true
  | .failed => true

/-- The checks (2) and (5) of R237, in that order, for a word that spells an operation. Check (1) is `operate`'s, (3)
and (4) are `decode`'s. -/
def State.commonRefusal (s : State) : Option RefusedReason :=
  if configOk s.cfg then
    if s.phase.isTerminal then some .terminal else none
  else some .badConfig

/-- The check `if not setupDone: raise Fault(BeforeSetup)` (10_state.md R22). -/
def State.setupCheck (s : State) : Option Stop :=
  if s.setupDone then none else some (.fault .beforeSetup)

/-- The two checks of REDRAW and FRAME, in the order written (43_frame.md R190, R199). -/
def State.drawCheck (s : State) : Option Stop :=
  if s.setupDone then
    if s.atlasBuilt then none else some (.fault .atlasNotBuilt)
  else some (.fault .beforeSetup)

/-- SETUP's own check (40_bus.md R113). -/
def State.repeatCheck (s : State) : Option Stop :=
  if s.setupDone then some (.refused .repeatedSetup) else none

/-- The outcome a decoding refusal is (30_encoding.md R83). -/
def refusalOf : DecodeError → RefusedReason
  | .reservedOp => .reservedOp
  | .reservedBits => .reservedBits

end Sys2Proof.Machine
end

