-- ==== Sys2Proof/Machine/Ops.lean ====
section
/-! DEFINITION. The named operations over memory, rows and screen that every meaning is made of, and the frame of an
operation: its checks, its outcome, and what `Fault` and `Refused` leave (60_exceptions.md R231, R233, R237). -/

namespace Sys2Proof.Machine

/-! ## Memory (20_memory.md) -/

/-- What an address that is not listed reads as: SETUP zeroes all RAM (40_bus.md R113); before SETUP nothing is read
(10_state.md R21, R22; log 5). -/
def Memory.unlisted : Byte := 0x00#8

/-- `mem[a]`. -/
def Memory.readByte (m : Memory) (a : Addr) : Byte := (m.lookup a.toNat).getD Memory.unlisted

/-- Lists cell `n` with `v`, in its place, over what it held. -/
def Memory.put : Memory → Nat → Byte → Memory
  | [], n, v => [(n, v)]
  | c :: m, n, v =>
    if n < c.1 then (n, v) :: c :: m
    else if n = c.1 then (n, v) :: m
    else c :: Memory.put m n v

/-- Takes cell `n` out of the list. -/
def Memory.drop (m : Memory) (n : Nat) : Memory := m.filter fun c => c.1 != n

/-- `mem[a] <- v`, the raw store of 00_scope.md R17. -/
def Memory.writeByte (m : Memory) (a : Addr) (v : Byte) : Memory :=
  if v = Memory.unlisted then m.drop a.toNat else m.put a.toNat v

/-- The canonical form: addresses strictly rising and inside the address space, and no cell listed that holds what an
unlisted one reads as. -/
def Memory.wf (m : Memory) : Bool :=
  decide (m.Pairwise fun c d => c.1 < d.1) && m.all fun c => decide (c.1 < Config.memSize) && c.2 != Memory.unlisted

/-! ## Screen cells (10_state.md R28) -/

/-- Pixel `(y, x)` of an image, for y and x below 16. -/
def imagePixel (img : CellImage) (y x : Nat) : Pixel :=
  (img[y % 16]'(Nat.mod_lt y (by decide)))[x % 16]'(Nat.mod_lt x (by decide))

/-- The cell of display row `row`, column `col`. -/
def Screen.cell (sc : Screen) (row col : Nat) : ScreenCell := (sc[32 * row + col]?).getD .undrawn

/-- The screen with that cell replaced. -/
def Screen.setCell (sc : Screen) (row col : Nat) (c : ScreenCell) : Screen := sc.setIfInBounds (32 * row + col) c

/-- `screen[y][x]`, y below 384 and x below 512. -/
def Screen.pixel (sc : Screen) (y x : Nat) : Pixel :=
  match sc.cell (y / 16) (x / 16) with
  | .drawn img => imagePixel img y x
  | .undrawn => Config.undrawnPixel y x

/-! ## Outcomes -/

/-- An operation that ends with no result. -/
def State.done (s : State) : State := { s with last := .done }

/-- An operation that ends with a result (00_scope.md R15). -/
def State.answer (s : State) (v : Byte) : State := { s with last := .value v }

/-- A `Fault` or `Refused` outcome: it sets `fault` with the word that met it and changes nothing else of the block
(10_state.md R37, 60_exceptions.md R231, R233; log 8). The block has no other trap entry and no return (R240). -/
def State.raise (s : State) (r : Stop) (w : Option Word) : State :=
  { s with fault := some { reason := r, word := w }, last := .stopped r }

/-- `Failed(SetupFailure)` (60_exceptions.md R232). -/
def State.failSetup (s : State) : State := { s with phase := .failed, last := .setupFailure }

/-- One operation, with the checks of R237 in their order: (1) the sticky fault, (2) and (5) the common refusals, (6)
the operation's own checks, `own`; then its effect. -/
def operateTo (w : Word) (own : Option Stop) (effect : Host.Outcome State Fault Refusal) (s : State) :
    Host.Outcome State Fault Refusal :=
  match s.fault with
  | some rec => .fault (.sticky rec.reason)
  | none =>
    match s.commonRefusal with
    | some r => .next (s.raise (.refused r) (some w))
    | none =>
      match own with
      | some r => .next (s.raise r (some w))
      | none => effect

/-- One operation whose effect always leaves a state, `run`. -/
def operate (w : Word) (own : Option Stop) (run : State) (s : State) : Host.Outcome State Fault Refusal :=
  operateTo w own (.next run) s

/-- A word that spells no operation: checks (1) and (2) of R237, then the decoder's refusal, (3) or (4). -/
def refuseWord (w : Word) (e : DecodeError) (s : State) : Host.Outcome State Fault Refusal :=
  match s.fault with
  | some rec => .fault (.sticky rec.reason)
  | none => .next (s.raise (.refused (if configOk s.cfg then refusalOf e else .badConfig)) (some w))

/-! ## The bus (40_bus.md) -/

/-- What FETCH returns (R110). -/
def State.fetchByte (s : State) (a : Addr) : Byte :=
  if inFloatWindow a then floatFilter (s.mem.readByte (a &&& Config.floatMask)) else s.mem.readByte a

/-- What READ returns (R111). -/
def State.readByte (s : State) (a : Addr) : Byte := s.mem.readByte a

/-- What WRITE stores (R112): nothing below the RAM boundary. -/
def State.writeByte (s : State) (a : Addr) (v : Byte) : State :=
  if inRomWindow a then s else { s with mem := s.mem.writeByte a v }

/-- Writes a ROM cell and its ghost (R113, R114). -/
def Memory.writeBoth (m : Memory) (o : Addr) (v : Byte) : Memory :=
  (m.writeByte o v).writeByte (o + Config.ghostOffset) v

/-- RAM zeroed and the ROM image in both windows (R113). The zero bytes of the image need no store, since every cell
starts at zero here. -/
def romCopy (cfg : Config) : Memory :=
  cfg.romImage.bytes.foldl
    (fun m c => if c.1.toNat < Config.romSize then m.writeBoth c.1 (romByte cfg c.1) else m) []

/-- Memory as SETUP leaves it: the patch follows the copy (R113, R114). -/
def setupMemory (cfg : Config) : Memory :=
  cfg.romPatch.foldl (fun m p => m.writeBoth p.1 p.2) (romCopy cfg)

/-! ## The keyboard rows (41_keyboard.md) -/

/-- `rows[r]`. -/
def State.row (s : State) (r : Fin 8) : Byte := s.rows[r]

/-- `rows[r] <- v`. -/
def State.setRow (s : State) (r : Fin 8) (v : Byte) : State := { s with rows := s.rows.set r v }

/-- What KBD_READ returns (R141). -/
def State.keyboardRead (s : State) (p : Addr) : Byte :=
  match rowSelect (rowSelectByte p) with
  | some i => s.row i
  | none => s.cfg.noRowValue

/-- What PORT_IN returns (R140). -/
def State.portInByte (s : State) (p : Addr) : Byte :=
  if isKeyboardPort p then s.keyboardRead p else s.cfg.otherPortValue

/-- What PORT_OUT does (R142): nothing, whatever the port and the byte. -/
def State.portOutByte (s : State) (_p : Addr) (_v : Byte) : State := s

/-- Clears the column bits of `m` in row `r`: pressed. -/
def State.pressBits (s : State) (r : Fin 8) (m : Byte) : State := s.setRow r (s.row r &&& ~~~m)

/-- Sets the column bits of `m` in row `r`: released. -/
def State.releaseBits (s : State) (r : Fin 8) (m : Byte) : State := s.setRow r (s.row r ||| m)

/-- What KEY_DOWN does (R143), the compound delete key first (R146). -/
def State.pressKey (s : State) (k : HostKey) : State :=
  if k = s.cfg.deleteKey then (s.pressBits 0 0x01#8).pressBits 4 0x01#8
  else
    match keymapEntry s.cfg k with
    | none => s
    | some e => s.pressBits (scanRow e) (scanMask e)

/-- What KEY_UP does (R144). -/
def State.releaseKey (s : State) (k : HostKey) : State :=
  if k = s.cfg.deleteKey then (s.releaseBits 0 0x01#8).releaseBits 4 0x01#8
  else
    match keymapEntry s.cfg k with
    | none => s
    | some e => s.releaseBits (scanRow e) (scanMask e)

/-- What KB_RESET does (R145). -/
def State.releaseAll (s : State) : State := { s with rows := Vector.replicate 8 s.cfg.rowReset }

end Sys2Proof.Machine
end

