-- ==== Sys2Proof/Machine/Atlas.lean ====
section
/-! DEFINITION. The glyph atlas builder (42_glyph_atlas.md). -/

namespace Sys2Proof.Machine

/-- Every element twice: the scale factor 2 of one axis (00_scope.md R13). -/
def double {α : Type} (l : List α) : List α := l.flatMap fun x => [x, x]

theorem length_double {α : Type} (l : List α) : (double l).length = 2 * l.length := by
  simp [double, List.length_flatMap, Nat.mul_comm]

/-- A glyph byte as 16 pixels: most significant bit leftmost, each bit twice; `ink` where the bit is set, `paper`
where it is clear (R170). -/
def expandByte (ink paper : Pixel) (b : Byte) : Vector Pixel 16 :=
  ⟨(double ((List.range 8).map fun x => if b.getLsbD (7 - x) then ink else paper)).toArray, by simp [length_double]⟩

/-- Glyph `g` as a cell: each of its 8 rows expanded, and twice (R170). -/
def glyphCell (cfg : Config) (ink paper : Pixel) (g : Nat) : CellImage :=
  ⟨(double ((List.range 8).map fun r => expandByte ink paper (glyphByte cfg g r))).toArray, by simp [length_double]⟩

/-- The atlas: the 64 normal cells, then the 64 inverted ones (R170, R172). It is made from the ROM image, not from
memory (R176). -/
def buildAtlas (cfg : Config) : Atlas :=
  ⟨((List.range 64).map (glyphCell cfg .fg .bg) ++ (List.range 64).map (glyphCell cfg .bg .fg)).toArray, by simp⟩

/-- `atlas[c][y][x]`, for c below 128, y and x below 16. -/
def atlasPixel (atlas : Atlas) (c y x : Nat) : Pixel :=
  imagePixel (atlas[c % 128]'(Nat.mod_lt c (by decide))) y x

/-- `atlas[X >> 4][Y][X & 0xF]`: the atlas as one surface of 2048 by 16 pixels (R173), X below 2048 and Y below 16. -/
def surfacePixel (atlas : Atlas) (x y : Nat) : Pixel := atlasPixel atlas (x / 16) y x

/-- ATLAS_BUILD (R170). -/
def execAtlasBuild (s : State) : Host.Outcome State Fault Refusal :=
  operate (encode .atlasBuild) none { s.done with atlas := buildAtlas s.cfg, atlasBuilt := true } s

end Sys2Proof.Machine
end

