-- ==== Sys2Proof/Machine/Bus.lean ====
section
/-! DEFINITION. The memory bus operations (40_bus.md). -/

namespace Sys2Proof.Machine

/-- FETCH (R110). -/
def execFetch (a : Addr) (s : State) : Host.Outcome State Fault Refusal :=
  operate (encode (.fetch a)) s.setupCheck (s.answer (s.fetchByte a)) s

/-- READ (R111). -/
def execRead (a : Addr) (s : State) : Host.Outcome State Fault Refusal :=
  operate (encode (.read a)) s.setupCheck (s.answer (s.readByte a)) s

/-- WRITE (R112). -/
def execWrite (a : Addr) (v : Byte) (s : State) : Host.Outcome State Fault Refusal :=
  operate (encode (.write a v)) s.setupCheck (s.writeByte a v).done s

/-- SETUP (R113): every cell of memory is written, then `setupDone` is set. -/
def execSetup (s : State) : Host.Outcome State Fault Refusal :=
  operate (encode .setup) s.repeatCheck { s.done with mem := setupMemory s.cfg, setupDone := true } s

end Sys2Proof.Machine
end

