-- ==== Sys2Proof/Machine/Frame.lean ====
section
/-! DEFINITION. The frame orchestrator and the display-file walker (43_frame.md). -/

namespace Sys2Proof.Machine

/-! ## Redraw -/

/-- A cell that is all background (R202, `Blank`). -/
def blankImage : CellImage := Vector.replicate 16 (Vector.replicate 16 .bg)

/-- What the screen cell holding `old` holds after BLIT of code `c` (R201, R202). -/
def blitCell (policy : HighCodePolicy) (atlas : Atlas) (c : Byte) (old : ScreenCell) : ScreenCell :=
  if isHighCode c then
    match policy with
    | .unchanged => old
    | .mask7 => .drawn atlas[cellIndex c]
    | .blank => .drawn blankImage
  else .drawn atlas[cellIndex c]

/-- The code of display row `row`, column `col`, of the display file at `base`, read as READ reads it (30_encoding.md
R92, R205). -/
def displayCode (mem : Memory) (base : Addr) (row col : Nat) : Byte := mem.readByte (codeAddr base row col)

/-- The walk from pointer `p` (R200): cell number n is that of display row n / 32 and column n % 32, and each cell is
blitted with its code. Safety.lean writes the walk as the loop of R200, which meets the same screen. -/
def walk (cfg : Config) (mem : Memory) (atlas : Atlas) (p : Addr) (sc : Screen) : Screen :=
  ⟨((List.range 768).map fun n =>
      blitCell cfg.highCodePolicy atlas (displayCode mem (p + cfg.rowBaseOffset) (n / 32) (n % 32))
        (sc.cell (n / 32) (n % 32))).toArray, by simp⟩

/-- The display-file pointer (R199, 30_encoding.md R91). -/
def State.displayPointer (s : State) : Addr :=
  pointerOf (s.readByte s.cfg.dfilePtrAddr) (s.readByte (s.cfg.dfilePtrAddr + 1#16))

/-- PRESENT (R203). -/
def State.present (s : State) : State := { s with presented := s.presented ++ [s.screen] }

/-- What REDRAW does after its checks (R199). -/
def State.redrawn (s : State) : State :=
  State.present { s with screen := walk s.cfg s.mem s.atlas s.displayPointer s.screen }

/-! ## The execute slice -/

/-- The step an engine takes next. -/
def EngineAgent.step (e : EngineAgent) : EngineStep := (e.steps.lookup e.state).getD (Config.freeEngineStep e.state)

/-- One engine step (R192): its transactions in order, each through the operation of its callback (40_bus.md R115,
41_keyboard.md R149). `latest` is the latest result of this step. None is a step that never ends. -/
def engineStep : EngineStep → Option Byte → State → Option State
  | .done n, _, s => some { s with engine := { s.engine with state := n } }
  | .hang, _, _ => none
  | .fetch a k, _, s => engineStep k (some (s.fetchByte a)) s
  | .read a k, _, s => engineStep k (some (s.readByte a)) s
  | .write a v k, latest, s => engineStep k latest (s.writeByte a v)
  | .portIn p k, _, s => engineStep k (some (s.portInByte p)) s
  | .portOut p v k, latest, s => engineStep k latest (s.portOutByte p v)
  | .ifResult v t e, latest, s => if latest = some v then engineStep t latest s else engineStep e latest s

/-- So many engine steps in sequence (R191). None is a slice with a step that never ends. -/
def slice : Nat → State → Option State
  | 0, s => some s
  | n + 1, s => (engineStep s.engine.step none s).bind (slice n)

/-! ## The input drain -/

/-- The events of one drain applied in order; a quit ends it (R193 to R196). -/
def drainEvents : List HostEvent → State → State
  | [], s => s
  | .keyDown k :: es, s => drainEvents es (s.pressKey k)
  | .keyUp k :: es, s => drainEvents es (s.releaseKey k)
  | .quit :: _, s => { s with quit := true }
  | .other _ :: es, s => drainEvents es s

/-- What the host answers in the next drain. -/
def HostAgent.drain (h : HostAgent) : HostDrain := (h.drains.lookup h.state).getD (Config.freeDrain h.state)

/-- The events the polls of the next drain return. -/
def State.nextDrain (s : State) : List HostEvent := s.host.drain.events

/-- DRAIN (R193). -/
def State.drained (s : State) : State :=
  drainEvents s.nextDrain { s with host := { s.host with state := s.host.drain.next } }

/-! ## One frame -/

/-- `if phase = Init: phase <- Running` (R190). -/
def State.started (s : State) : State := if s.phase = .init then { s with phase := .running } else s

/-- The end of a frame: the redraw, or the end of the run (R190, R197, R198). -/
def State.frameEnd (s : State) : State := if s.quit then { s with phase := .quit } else s.redrawn

/-- SLICE of a FRAME (R190, R191). -/
def State.sliced (s : State) : Option State := slice s.cfg.stepsPerFrame s.started

/-- What FRAME does after its slice (R190). -/
def State.framed (u : State) : State := u.drained.frameEnd

/-- What FRAME does after its checks (R190). It never ends if its slice does not (70_reset_and_hazards.md R273). -/
def State.frameEffect (s : State) : Host.Outcome State Fault Refusal :=
  match s.sliced with
  | some u => .next u.framed.done
  | none => .fault .engineHang

/-- REDRAW (R199). -/
def execRedraw (s : State) : Host.Outcome State Fault Refusal :=
  operate (encode .redraw) s.drawCheck s.redrawn.done s

/-- FRAME (R190). -/
def execFrame (s : State) : Host.Outcome State Fault Refusal :=
  operateTo (encode .frame) s.drawCheck s.frameEffect s

end Sys2Proof.Machine
end

