-- ==== Sys2Proof/Machine/Keyboard.lean ====
section
/-! DEFINITION. The keyboard matrix operations (41_keyboard.md). None of them needs SETUP. -/

namespace Sys2Proof.Machine

/-- PORT_IN (R140). -/
def execPortIn (p : Addr) (s : State) : Host.Outcome State Fault Refusal :=
  operate (encode (.portIn p)) none (s.answer (s.portInByte p)) s

/-- PORT_OUT (R142). -/
def execPortOut (p : Addr) (v : Byte) (s : State) : Host.Outcome State Fault Refusal :=
  operate (encode (.portOut p v)) none (s.portOutByte p v).done s

/-- KEY_DOWN (R143). -/
def execKeyDown (k : HostKey) (s : State) : Host.Outcome State Fault Refusal :=
  operate (encode (.keyDown k)) none (s.pressKey k).done s

/-- KEY_UP (R144). -/
def execKeyUp (k : HostKey) (s : State) : Host.Outcome State Fault Refusal :=
  operate (encode (.keyUp k)) none (s.releaseKey k).done s

/-- KB_RESET (R145). -/
def execKbReset (s : State) : Host.Outcome State Fault Refusal :=
  operate (encode .kbReset) none s.releaseAll.done s

end Sys2Proof.Machine
end

