-- ==== Sys2Proof/Machine/Dispatch.lean ====
section
/-! DEFINITION. The dispatch: one arm per operation of 30_encoding.md R81. -/

namespace Sys2Proof.Machine

def exec (i : Instr) (s : State) : Host.Outcome State Fault Refusal :=
  match i with
  | .fetch a => Sys2Proof.Machine.execFetch a s
  | .read a => Sys2Proof.Machine.execRead a s
  | .write a v => Sys2Proof.Machine.execWrite a v s
  | .portIn p => Sys2Proof.Machine.execPortIn p s
  | .portOut p v => Sys2Proof.Machine.execPortOut p v s
  | .keyDown k => Sys2Proof.Machine.execKeyDown k s
  | .keyUp k => Sys2Proof.Machine.execKeyUp k s
  | .kbReset => Sys2Proof.Machine.execKbReset s
  | .setup => Sys2Proof.Machine.execSetup s
  | .atlasBuild => Sys2Proof.Machine.execAtlasBuild s
  | .redraw => Sys2Proof.Machine.execRedraw s
  | .frame => Sys2Proof.Machine.execFrame s

end Sys2Proof.Machine
end

