-- ==== Sys2Proof/Machine/Boot.lean ====
section
/-! DEFINITION. Who issues what: a word from outside (30_encoding.md R81), and, when none is pending, the orchestrator's
run: boot, then FRAME while the run lasts (43_frame.md R208, 70_reset_and_hazards.md R261). -/

namespace Sys2Proof.Machine

/-- One transaction word: decoded, then run or refused (60_exceptions.md R237). -/
def issueWord (w : Word) (s : State) : Host.Outcome State Fault Refusal :=
  match decode w with
  | .ok i => exec i s
  | .error e => refuseWord w e s

/-- Step 1 of boot: the configuration check. It meets no word (log 17). -/
def bootCheck (s : State) : State :=
  if configOk s.cfg then { s with stage := .setup } else s.raise (.refused .badConfig) none

/-- Steps 4 and 6 of boot: the host creates a surface, or boot fails (R232). -/
def bootSurface (ok : Bool) (following : BootStage) (s : State) : State :=
  if ok then { s with stage := following } else s.failSetup

/-- One step of the run of R208. The steps of boot stand in the order of R261; step 7, the engine's own reset, changes
nothing of the block (R263). -/
def orchestrate (s : State) : Host.Outcome State Fault Refusal :=
  if s.phase.isTerminal then .refused .runOver
  else
    match s.stage with
    | .checkConfig => .next (bootCheck s)
    | .setup => exec .setup { s with stage := .kbReset }
    | .kbReset => exec .kbReset { s with stage := .screenSurface }
    | .screenSurface => .next (bootSurface s.host.screenSurfaceOk .atlasBuild s)
    | .atlasBuild => exec .atlasBuild { s with stage := .atlasSurface }
    | .atlasSurface => .next (bootSurface s.host.atlasSurfaceOk .engineReset s)
    | .engineReset => .next { s with stage := .loop }
    | .loop => exec .frame s

/-- One step in a state that has no sticky fault: the oldest pending word, or else the orchestrator's next operation. -/
def advance (s : State) : Host.Outcome State Fault Refusal :=
  match s.pending with
  | w :: rest => issueWord w { s with pending := rest }
  | [] => orchestrate s

/-- The state with a transaction word put before all pending ones. -/
def State.issueNext (s : State) (w : Word) : State := { s with pending := w :: s.pending }

end Sys2Proof.Machine
end

