-- ==== Sys2Proof/Machine/Step.lean ====
section
/-! DEFINITION. One step of the machine. The block has no program counter (10_state.md R33): its next operation is the
oldest pending word, or, with none pending, the orchestrator's (log 10, log 11). -/

namespace Sys2Proof.Machine

/-- A step: none in a faulted state (60_exceptions.md R233), else `advance`. -/
def step (s : State) : Host.Outcome State Fault Refusal :=
  match s.fault with
  | some rec => .fault (.sticky rec.reason)
  | none => advance s

/-- `s` with the word of an opcode-table row issued next (log 10). -/
def State.withFetchWord (s : State) (nbits w : Nat) : State := s.issueNext (tableWord nbits w)

end Sys2Proof.Machine
end

