-- ==== Sys2Proof/WellFormed.lean ====
section
/-! DEFINITION. What is refused before anything runs. A term of `Instr` is always well-formed (30_encoding.md R80, R82:
its fields have exactly the widths of the word), so the checks are those of the textual form (R95, R96: a literal that
does not fit its field is an assembly error) and of the configuration (60_exceptions.md R238, whose checks are written
in Machine/Operands.lean). -/

namespace Sys2Proof

/-- The literals a mnemonic takes, each given by the number of values that fit its field, in the order A, D of R95;
for a pseudo-operation those of R96. -/
def Mnemonic.fields : Mnemonic → List Nat
  | .fetch => [0x10000]
  | .read => [0x10000]
  | .write => [0x10000, 0x100]
  | .portIn => [0x10000]
  | .portOut => [0x10000, 0x100]
  | .keyDown => [0x10000]
  | .keyUp => [0x10000]
  | .kbReset => []
  | .setup => []
  | .atlasBuild => []
  | .redraw => []
  | .frame => []
  | .scanRow => [8]
  | .write16 => [0x10000, 0x10000]
  | .tap => [0x10000]
  | .boot => []

/-- A line gives each field of its mnemonic one literal that fits it (R95). -/
def AsmLine.wf (l : AsmLine) : Bool :=
  l.operands.length == l.mnemonic.fields.length &&
    (l.operands.zip l.mnemonic.fields).all fun p => decide (p.1 < p.2)

/-- The configuration is one that every operation accepts (R238). -/
abbrev Config.WellFormed (cfg : Config) : Prop := Machine.configOk cfg = true

end Sys2Proof
end

