-- ==== Sys2Proof/Machine/Assembler.lean ====
section
/-! DEFINITION. The textual form of 30_encoding.md R95 and the pseudo-operations of R96: a line of text, its mnemonic
and literals, the operations it stands for, and their words. Nothing of the machine depends on it. -/

namespace Sys2Proof.Machine

/-! ## Reading a line of text (R95) -/

/-- The mnemonics as they are written. -/
def mnemonicNames : List (String × Mnemonic) :=
  [("FETCH", .fetch), ("READ", .read), ("WRITE", .write), ("PORT_IN", .portIn), ("PORT_OUT", .portOut),
   ("KEY_DOWN", .keyDown), ("KEY_UP", .keyUp), ("KB_RESET", .kbReset), ("SETUP", .setup),
   ("ATLAS_BUILD", .atlasBuild), ("REDRAW", .redraw), ("FRAME", .frame),
   ("SCAN_ROW", .scanRow), ("WRITE16", .write16), ("TAP", .tap), ("BOOT", .boot)]

/-- The mnemonic spelled by these characters. -/
def readMnemonic (word : List Char) : Option Mnemonic :=
  (mnemonicNames.find? fun entry => entry.1.toList == word).map Prod.snd

/-- The value of a digit in base 16, capitals or not. -/
def digitValue (c : Char) : Option Nat :=
  if '0' ≤ c ∧ c ≤ '9' then some (c.toNat - '0'.toNat)
  else if 'a' ≤ c ∧ c ≤ 'f' then some (c.toNat - 'a'.toNat + 10)
  else if 'A' ≤ c ∧ c ≤ 'F' then some (c.toNat - 'A'.toNat + 10)
  else none

/-- Digits of a base, after a value already read. -/
def readDigits (base : Nat) : List Char → Nat → Option Nat
  | [], acc => some acc
  | c :: cs, acc =>
    match digitValue c with
    | some d => if d < base then readDigits base cs (base * acc + d) else none
    | none => none

/-- A literal: `0x` and hexadecimal digits, or decimal digits (R95). -/
def readLiteral : List Char → Option Nat
  | [] => none
  | '0' :: 'x' :: [] => none
  | '0' :: 'x' :: cs => readDigits 16 cs 0
  | cs => readDigits 10 cs 0

/-- The text before a comment (R95). -/
def dropComment (line : List Char) : List Char := line.takeWhile (· != ';')

/-- The text without blanks at its two ends. -/
def trimBlanks (cs : List Char) : List Char :=
  ((cs.dropWhile (· == ' ')).reverse.dropWhile (· == ' ')).reverse

/-- The pieces between commas. -/
def splitCommas : List Char → List (List Char)
  | [] => [[]]
  | c :: cs =>
    if c == ',' then [] :: splitCommas cs
    else
      match splitCommas cs with
      | [] => [[c]]
      | piece :: rest => (c :: piece) :: rest

/-- The literals after a mnemonic; nothing after it is no literal. -/
def readOperands (cs : List Char) : Option (List Nat) :=
  match trimBlanks cs with
  | [] => some []
  | text => (splitCommas text).mapM fun piece => readLiteral (trimBlanks piece)

/-- The text of a line that is read: without its comment and the blanks around it (R95). -/
def lineText (line : List Char) : List Char := trimBlanks (dropComment line)

/-- A line that holds an operation: a mnemonic, blanks, literals (R95). DESIGN CHOICE (log 18): blanks are spaces, mnemonics
are in capitals, and the digits of a hexadecimal literal may be of either case. -/
def readLine (line : List Char) : Option AsmLine :=
  let text := lineText line
  let word := text.takeWhile (· != ' ')
  match readMnemonic word, readOperands (text.drop word.length) with
  | some m, some ns => some { mnemonic := m, operands := ns }
  | _, _ => none

/-! ## What a line stands for (R95, R96) -/

/-- The port `SCAN_ROW r` reads: `((0xFF ^ (1 << r)) << 8) | 0xFE` (R96). -/
def scanRowPort (r : Nat) : Addr := ((0xFF#16 ^^^ (1#16 <<< r)) <<< 8) ||| 0xFE#16

/-- The operations of a line: itself, or the expansion of a pseudo-operation (R96). None is an assembly error. -/
def expandLine (l : AsmLine) : Option (List Instr) :=
  if l.wf then
    let n := l.operands.headD 0
    let m := l.operands.tail.headD 0
    let a := BitVec.ofNat 16 n
    match l.mnemonic with
    | .fetch => some [.fetch a]
    | .read => some [.read a]
    | .write => some [.write a (BitVec.ofNat 8 m)]
    | .portIn => some [.portIn a]
    | .portOut => some [.portOut a (BitVec.ofNat 8 m)]
    | .keyDown => some [.keyDown a]
    | .keyUp => some [.keyUp a]
    | .kbReset => some [.kbReset]
    | .setup => some [.setup]
    | .atlasBuild => some [.atlasBuild]
    | .redraw => some [.redraw]
    | .frame => some [.frame]
    | .scanRow => some [.portIn (scanRowPort n)]
    | .write16 => some [.write a (BitVec.ofNat 8 m), .write (a + 1#16) (BitVec.ofNat 8 (m / 256))]
    | .tap => some [.keyDown a, .keyUp a]
    | .boot => some [.setup, .kbReset, .atlasBuild]
  else none

/-- The words of a line of text; none is an assembly error. DESIGN CHOICE (log 18): a line that holds only a comment, or
nothing, has no words and is no error. -/
def assembleLine (line : List Char) : Option (List Word) :=
  if lineText line = [] then some []
  else ((readLine line).bind expandLine).map fun is => is.map encode

end Sys2Proof.Machine
end

