-- ==== Sys2Proof/Safety.lean ====
section
/-! DEFINITION. The terms claims are stated in: a state in which operations run, what counts as a safe run, the invariant
of the reachable states, and what a memory holds right after SETUP. -/

namespace Sys2Proof.Machine

/-- No common check of 60_exceptions.md R237 stops an operation here: no sticky fault, a well-formed configuration, and
a run that has not ended. -/
structure State.Ready (s : State) : Prop where
  noFault : s.fault = none
  config : configOk s.cfg = true
  live : s.phase.isTerminal = false

/-- The byte the ROM window holds at offset `o` after SETUP: the patch entry if there is one, else the image (40_bus.md
R113, R114). -/
def patchedRom (cfg : Config) (o : Addr) : Byte := (cfg.romPatch.lookup o).getD (romByte cfg o)

/-- A ready state in which memory holds its values: FETCH, READ and WRITE run (10_state.md R22). -/
structure State.BusReady (s : State) : Prop extends s.Ready where
  memorySet : s.setupDone = true

/-- A ready state in which REDRAW and FRAME run (43_frame.md R190, R199). -/
structure State.DrawReady (s : State) : Prop extends s.BusReady where
  atlasSet : s.atlasBuilt = true

/-- What 10_state.md and 20_memory.md say of every state of a run. -/
structure State.Inv (s : State) : Prop where
  /-- Memory keeps its canonical form. -/
  memory : s.mem.wf = true
  /-- Both ROM windows hold the patched image, so the ghost equals the primary copy (20_memory.md R55, R56). -/
  rom : s.setupDone = true → ∀ o : Addr, o.toNat < Config.romSize →
    s.mem.readByte o = patchedRom s.cfg o ∧ s.mem.readByte (o + Config.ghostOffset) = patchedRom s.cfg o
  /-- Bits 7..5 of a row keep their reset value (10_state.md R23). -/
  rowTops : ∀ r : Fin 8, (s.row r).extractLsb' 5 3 = s.cfg.rowReset.extractLsb' 5 3
  /-- `quit` is set exactly when the run has ended by a quit (10_state.md R29, R30). -/
  quitPhase : s.quit = true ↔ s.phase = .quit
  /-- SETUP does not run under an ill-formed configuration (60_exceptions.md R238). -/
  configured : s.setupDone = true → configOk s.cfg = true
  /-- The atlas, once built, is the one the ROM image gives (42_glyph_atlas.md R174). -/
  atlas : s.atlasBuilt = true → s.atlas = buildAtlas s.cfg
  /-- No FRAME and no REDRAW has run before SETUP and ATLAS_BUILD (43_frame.md R190, R199). -/
  frames : (s.presented ≠ [] ∨ s.phase = .running ∨ s.phase = .quit) → s.setupDone = true ∧ s.atlasBuilt = true

/-! ## What a slice stores -/

/-- The addresses one engine step issues a WRITE for, along the branches it takes (43_frame.md R192). -/
def stepStores : EngineStep → Option Byte → State → List Addr
  | .done _, _, _ => []
  | .hang, _, _ => []
  | .fetch a k, _, s => stepStores k (some (s.fetchByte a)) s
  | .read a k, _, s => stepStores k (some (s.readByte a)) s
  | .write a v k, latest, s => a :: stepStores k latest (s.writeByte a v)
  | .portIn p k, _, s => stepStores k (some (s.portInByte p)) s
  | .portOut p v k, latest, s => stepStores k latest (s.portOutByte p v)
  | .ifResult v t e, latest, s => if latest = some v then stepStores t latest s else stepStores e latest s

/-- The addresses a slice issues a WRITE for (43_frame.md R191). -/
def sliceStores : Nat → State → List Addr
  | 0, _ => []
  | n + 1, s =>
    stepStores s.engine.step none s ++
      match engineStep s.engine.step none s with
      | some t => sliceStores n t
      | none => []

/-! ## The walk as the loop of 43_frame.md R200 -/

/-- BLIT of code `c` at display row `row`, column `col` (R201), as a store into the screen. -/
def Screen.blit (policy : HighCodePolicy) (atlas : Atlas) (c : Byte) (col row : Nat) (sc : Screen) : Screen :=
  sc.setCell row col (blitCell policy atlas c (sc.cell row col))

/-- The inner loop of R200: 32 codes from the running address on. -/
def loopRow (cfg : Config) (mem : Memory) (atlas : Atlas) (row : Nat) (start : Addr × Screen) : Addr × Screen :=
  (List.range Config.dfCols).foldl
    (fun now col => (now.1 + 1#16, now.2.blit cfg.highCodePolicy atlas (mem.readByte now.1) col row)) start

/-- The loop of R200: 24 rows, one terminator byte skipped after each. -/
def loopWalk (cfg : Config) (mem : Memory) (atlas : Atlas) (p : Addr) (sc : Screen) : Screen :=
  ((List.range Config.dfRows).foldl
    (fun now row =>
      let after := loopRow cfg mem atlas row now
      (after.1 + 1#16, after.2)) (p + cfg.rowBaseOffset, sc)).2

/-- A safe state: no `Fault` and no `Refused` outcome has been met (60_exceptions.md R233). -/
def State.Safe (s : State) : Prop := s.fault = none

end Sys2Proof.Machine
end

