-- ==== Sys2Proof/Certificates/Slice0/Obligations.lean ====
section
/-! DEFINITION. The statements for the provers. A statement over every state is one over every configuration, engine and
host, which State holds (log 1, log 13, log 15). `State.Ready` is: no sticky fault, a well-formed configuration, a run
that has not ended; `BusReady` adds that SETUP has run, `DrawReady` that ATLAS_BUILD has too. -/

open Sys2Proof Sys2Proof.Machine

/-! ## Encoding -/

/-- Decoding an encoded operation gives it back, with every operand. 30_encoding.md section 1 is 92 D1. -/
def Obligations.DecodeEncodeRoundTrip : Prop :=
  ∀ i : Instr, decode (encode i) = .ok i

/-- A word that decodes is the encoding of what it decodes to, so no two words spell one operation. 92 D1. -/
def Obligations.EncodeDecodeRoundTrip : Prop :=
  ∀ (w : Word) (i : Instr), decode w = .ok i → encode i = w

/-- Exactly which words are refused, and why: OP first, then RSV and the unused fields. The refusals are 92 D31. -/
def Obligations.DecodeRefusesExactlyTheReservedWords : Prop :=
  ∀ w : Word,
    (decode w = .error .reservedOp ↔ 12 ≤ (opField w).toNat) ∧
    (decode w = .error .reservedBits ↔
      (opField w).toNat < 12 ∧
      (rsvField w ≠ 0 ∨ (dField w ≠ 0 ∧ (opField w).toNat ≠ 2 ∧ (opField w).toNat ≠ 4) ∨
        (aField w ≠ 0 ∧ 7 ≤ (opField w).toNat)))

/-- Words written out from 30_encoding.md R80 to R83 and 95_test_vectors.md (92 D1, D31). -/
def Obligations.WrittenWordsDecodeAsTheSpecSays : Prop :=
  decode 0x00C00000#32 = .ok (.fetch 0xC000#16) ∧
  decode 0x103FFF00#32 = .ok (.read 0x3FFF#16) ∧
  decode 0x20400012#32 = .ok (.write 0x4000#16 0x12#8) ∧
  decode 0x30FEFE00#32 = .ok (.portIn 0xFEFE#16) ∧
  decode 0x4000FD00#32 = .ok (.portOut 0x00FD#16 0x00#8) ∧
  decode 0x50006100#32 = .ok (.keyDown 0x0061#16) ∧
  decode 0x60000800#32 = .ok (.keyUp 0x0008#16) ∧
  decode 0x70000000#32 = .ok .kbReset ∧
  decode 0x80000000#32 = .ok .setup ∧
  decode 0x90000000#32 = .ok .atlasBuild ∧
  decode 0xA0000000#32 = .ok .redraw ∧
  decode 0xB0000000#32 = .ok .frame ∧
  decode 0xF1234567#32 = .error .reservedOp ∧
  decode 0x81000000#32 = .error .reservedBits ∧
  decodeTableWord 32 0x50006101 = none

/-! ## Steps, checks and outcomes -/

/-- A step runs the operation the oldest pending word spells, in the state without that word (log 10); so the word that
withFetchWord places is the one the next step runs. -/
def Obligations.StepRunsTheDecodedWord : Prop :=
  (∀ (s : State) (w : Word) (rest : List Word) (i : Instr),
    s.fault = none → s.pending = w :: rest → decode w = .ok i → step s = exec i { s with pending := rest }) ∧
  (∀ (s : State) (i : Instr), s.fault = none → step (s.withFetchWord 32 (encode i).toNat) = exec i s)

/-- A word that spells no operation sets `fault` with the word, and nothing else of the block changes; an ill-formed
configuration comes first (60_exceptions.md R237; 92 D31, D33; log 8, log 10). -/
def Obligations.StepRefusesAWordThatSpellsNoOperation : Prop :=
  ∀ (s : State) (w : Word) (rest : List Word) (e : DecodeError),
    s.fault = none → s.pending = w :: rest → decode w = .error e →
    step s = .next { s with
      pending := rest
      fault := some { reason := .refused (if configOk s.cfg then refusalOf e else .badConfig), word := some w }
      last := .stopped (.refused (if configOk s.cfg then refusalOf e else .badConfig)) }

/-- The common checks come before every operation's own: an ill-formed configuration, then an ended run
(60_exceptions.md R236 to R238; 92 D21, D28, D31; the outcome as a state is log 8). -/
def Obligations.CommonChecksComeFirst : Prop :=
  ∀ (i : Instr) (s : State), s.fault = none →
    (configOk s.cfg = false → exec i s = .next { s with
      fault := some { reason := .refused .badConfig, word := some (encode i) }
      last := .stopped (.refused .badConfig) }) ∧
    (configOk s.cfg = true → s.phase = .quit ∨ s.phase = .failed → exec i s = .next { s with
      fault := some { reason := .refused .terminal, word := some (encode i) }
      last := .stopped (.refused .terminal) })

/-- From a state whose `fault` is set no operation and no step has a next state (60_exceptions.md R233; 92 D33). -/
def Obligations.AFaultedStateHasNoStep : Prop :=
  ∀ (s : State) (r : StopRecord), s.fault = some r →
    step s = .fault (.sticky r.reason) ∧ ∀ i : Instr, exec i s = .fault (.sticky r.reason)

/-- FETCH, READ, WRITE, REDRAW and FRAME before SETUP, and REDRAW and FRAME before ATLAS_BUILD: `fault` is set with the
word that met it and nothing else of the block changes (60_exceptions.md R231; 92 D33; log 8). -/
def Obligations.OperationsBeforeTheirStateIsSetFault : Prop :=
  ∀ (s : State) (a : Addr) (v : Byte), s.Ready →
    (s.setupDone = false →
      ∀ i ∈ [Instr.fetch a, Instr.read a, Instr.write a v, Instr.redraw, Instr.frame],
        exec i s = .next { s with
          fault := some { reason := .fault .beforeSetup, word := some (encode i) }
          last := .stopped (.fault .beforeSetup) }) ∧
    (s.setupDone = true → s.atlasBuilt = false →
      ∀ i ∈ [Instr.redraw, Instr.frame],
        exec i s = .next { s with
          fault := some { reason := .fault .atlasNotBuilt, word := some (encode i) }
          last := .stopped (.fault .atlasNotBuilt) })

/-- What an accepted configuration is, in the words of 60_exceptions.md R238 (92 D28, D32; the image as a size and listed
bytes is log 3, the key map as a list is log 4). -/
def Obligations.AcceptedConfigurationsMeetEveryCondition : Prop :=
  ∀ cfg : Config, configOk cfg = true ↔
    cfg.romImage.size = 8192 ∧
    (∃ (o₁ o₂ : Addr) (v₁ v₂ : Byte), cfg.romPatch = [(o₁, v₁), (o₂, v₂)] ∧
      o₁ ≠ o₂ ∧ o₁.toNat ≤ 0x1FFF ∧ o₂.toNat ≤ 0x1FFF) ∧
    cfg.charsetBase.toNat + 0x200 ≤ 0x2000 ∧
    (∀ (k : HostKey) (e : Byte), keymapEntry cfg k = some e →
      ∃ c : Nat, c < 5 ∧ ∀ j : Nat, j < 5 → (e.getLsbD j = true ↔ j = c))

/-! ## The memory bus -/

/-- FETCH is filtered in the floating window, and nowhere else; READ is never filtered. 20_memory.md R52 and
30_encoding.md R93. Nothing but the reported outcome changes. -/
def Obligations.FetchIsFilteredInTheFloatingWindowOnly : Prop :=
  ∀ (s : State) (a : Addr), s.BusReady →
    (a.getLsbD 15 = false → exec (.fetch a) s = .next { s with last := .value (s.mem.readByte a) }) ∧
    (a.getLsbD 15 = true →
      ((s.mem.readByte (a &&& 0x7FFF#16)).getLsbD 6 = true →
        exec (.fetch a) s = .next { s with last := .value (s.mem.readByte (a &&& 0x7FFF#16)) }) ∧
      ((s.mem.readByte (a &&& 0x7FFF#16)).getLsbD 6 = false →
        exec (.fetch a) s = .next { s with last := .value 0x00#8 })) ∧
    exec (.read a) s = .next { s with last := .value (s.mem.readByte a) } ∧
    (a.getLsbD 15 = true ↔ 0x8000 ≤ a.toNat) ∧
    (∀ b : Byte, b.getLsbD 6 = true ↔
      (0x40 ≤ b.toNat ∧ b.toNat ≤ 0x7F) ∨ (0xC0 ≤ b.toNat ∧ b.toNat ≤ 0xFF))

/-- 20_memory.md R55: WRITE below 0x4000 changes nothing, WRITE elsewhere stores, every address can be read and fetched,
and no operation but SETUP changes a cell below 0x4000. -/
def Obligations.OnlySetupStoresIntoTheRomWindow : Prop :=
  (∀ (s : State) (a : Addr) (v : Byte), s.BusReady →
    (a.toNat < 0x4000 → exec (.write a v) s = .next { s with last := .done }) ∧
    (0x4000 ≤ a.toNat → ∃ t, exec (.write a v) s = .next t ∧ t = { s with mem := t.mem, last := .done } ∧
      ∀ b : Addr, t.mem.readByte b = if b = a then v else s.mem.readByte b) ∧
    (∃ b, exec (.read a) s = .next { s with last := .value b }) ∧
    (∃ b, exec (.fetch a) s = .next { s with last := .value b })) ∧
  (∀ (s t : State) (i : Instr), i ≠ .setup → exec i s = .next t →
    ∀ a : Addr, a.toNat < 0x4000 → t.mem.readByte a = s.mem.readByte a)

/-- W1 and W2 of 95_test_vectors.md (40_bus.md R117): a WRITE and then a READ of the same address. -/
def Obligations.ReadAfterWriteGivesTheByteOnlyInRam : Prop :=
  ∀ (s : State) (a : Addr) (v : Byte), s.BusReady →
    ∃ t, exec (.write a v) s = .next t ∧
      exec (.read a) t = .next { t with last := .value (if a.toNat < 0x4000 then s.mem.readByte a else v) }

/-- What a FETCH sees of an earlier WRITE (20_memory.md R66): a WRITE to low RAM is seen raw there and filtered 32 KiB
higher, a WRITE to 0x8000 and above by READ and by no FETCH, a WRITE below 0x4000 by neither. -/
def Obligations.FetchSeesWritesToLowRamOnly : Prop :=
  ∀ (s : State) (a : Addr) (v : Byte), s.BusReady →
    (0x4000 ≤ a.toNat → a.toNat < 0x8000 →
      ∃ t, exec (.write a v) s = .next t ∧
        exec (.fetch a) t = .next { t with last := .value v } ∧
        exec (.fetch (a ||| 0x8000#16)) t =
          .next { t with last := .value (if v.getLsbD 6 then v else 0x00#8) }) ∧
    (0x8000 ≤ a.toNat → ∃ t, exec (.write a v) s = .next t ∧
      exec (.read a) t = .next { t with last := .value v } ∧
      ∀ b : Addr, ∃ x, exec (.fetch b) t = .next { t with last := .value x } ∧
        exec (.fetch b) s = .next { s with last := .value x }) ∧
    (a.toNat < 0x4000 → ∃ t, exec (.write a v) s = .next t ∧
      ∀ b : Addr, ∃ x y, exec (.fetch b) t = .next { t with last := .value x } ∧
        exec (.fetch b) s = .next { s with last := .value x } ∧
        exec (.read b) t = .next { t with last := .value y } ∧ exec (.read b) s = .next { s with last := .value y })

/-- No FETCH depends on a cell at 0x8000 or above (20_memory.md R53). -/
def Obligations.UpperMemoryIsNeverFetched : Prop :=
  ∀ s₁ s₂ : State, s₁.BusReady → s₂.BusReady →
    (∀ a : Addr, a.toNat < 0x8000 → s₁.mem.readByte a = s₂.mem.readByte a) →
    ∀ a : Addr, ∃ x, exec (.fetch a) s₁ = .next { s₁ with last := .value x } ∧
      exec (.fetch a) s₂ = .next { s₂ with last := .value x }

/-- FETCH, READ and PORT_IN change nothing of the block and answer the same when repeated (20_memory.md R61). -/
def Obligations.ReadingOperationsChangeNothingAndRepeat : Prop :=
  ∀ (s : State) (a : Addr), s.BusReady →
    ∀ i ∈ [Instr.fetch a, Instr.read a, Instr.portIn a],
      ∃ v, exec i s = .next { s with last := .value v } ∧
        exec i { s with last := .value v } = .next { s with last := .value v }

/-- SETUP: the patched image in both ROM windows, zero in all RAM, `setupDone` set, nothing else of the block changed
(40_bus.md R113, R114). The log of the image's form is log 3. -/
def Obligations.SetupFillsBothRomWindowsAndZeroesRam : Prop :=
  ∀ s : State, s.Ready → s.setupDone = false →
    ∃ t, exec .setup s = .next t ∧ t = { s with mem := t.mem, setupDone := true, last := .done } ∧
      (∀ o : Addr, o.toNat < 0x2000 →
        ∀ b, b = ((s.cfg.romPatch.lookup o).getD (romByte s.cfg o)) →
          t.mem.readByte o = b ∧ t.mem.readByte (o + 0x2000#16) = b) ∧
      (∀ a : Addr, 0x4000 ≤ a.toNat → t.mem.readByte a = 0x00#8)

/-- SETUP after SETUP is refused with its word (40_bus.md R113; 92 D36; log 8). -/
def Obligations.SetupAfterSetupIsRefused : Prop :=
  ∀ s : State, s.BusReady → exec .setup s = .next { s with
    fault := some { reason := .refused .repeatedSetup, word := some 0x80000000#32 }
    last := .stopped (.refused .repeatedSetup) }

/-- The ghost reads as the primary ROM at every point of a run after SETUP (20_memory.md R56). `State.Inv` is the
invariant of InvariantKeptByEveryStep. -/
def Obligations.GhostReadsAsThePrimaryRom : Prop :=
  ∀ (s : State) (a : Addr), s.BusReady → s.Inv → a.toNat < 0x2000 →
    ∃ v, exec (.read a) s = .next { s with last := .value v } ∧
      exec (.read (a + 0x2000#16)) s = .next { s with last := .value v }

/-! ## The keyboard -/

/-- The keyboard is the only device (60_exceptions.md section 3): it answers every port with bit 0 clear with the lowest row
whose select bit is 0, every other port reads `OTHER_PORT_VALUE`, every PORT_OUT is absorbed, and no memory address is a
device: a READ answers the cell and a WRITE changes no row. That a keyboard read which selects no row answers
`NO_ROW_VALUE` is the spec's decision 92 D4 (41_keyboard.md, KBD_READ), the value at other ports 92 D5. -/
def Obligations.KeyboardIsTheOnlyDevice : Prop :=
  (∀ (s : State) (p : Addr) (v : Byte), s.Ready →
    (p.getLsbD 0 = false →
      (∀ r : Fin 8, p.getLsbD (8 + r) = false → (∀ j : Fin 8, j < r → p.getLsbD (8 + j) = true) →
        exec (.portIn p) s = .next { s with last := .value s.rows[r] }) ∧
      ((∀ j : Fin 8, p.getLsbD (8 + j) = true) →
        exec (.portIn p) s = .next { s with last := .value s.cfg.noRowValue })) ∧
    (p.getLsbD 0 = true → exec (.portIn p) s = .next { s with last := .value s.cfg.otherPortValue }) ∧
    exec (.portOut p v) s = .next { s with last := .done }) ∧
  (∀ (s : State) (a : Addr) (v : Byte), s.BusReady →
    exec (.read a) s = .next { s with last := .value (s.mem.readByte a) } ∧
    ∃ t, exec (.write a v) s = .next t ∧ t.rows = s.rows)

/-- 41_keyboard.md R142: PORT_OUT changes nothing, whatever the port and the byte, and no later operation can tell that
it ran. -/
def Obligations.PortOutIsANoOpNoOperationSees : Prop :=
  ∀ (s : State) (p : Addr) (v : Byte), s.Ready →
    encode (.portOut p v) = 0x40#8 ++ p ++ v ∧
    ∃ t, exec (.portOut p v) s = .next t ∧ t = { s with last := .done } ∧ ∀ i : Instr, exec i t = exec i s

/-- 41_keyboard.md R143: KEY_DOWN clears bit 0 of rows 0 and 4 for the delete key, else the mapped key's column bit in its
row, else nothing; bits 7..5 of a row and everything but the rows stay. -/
def Obligations.KeyDownClearsTheKeysBits : Prop :=
  ∀ (s : State) (k : HostKey), s.Ready →
    encode (.keyDown k) = 0x50#8 ++ k ++ 0x00#8 ∧
    ∃ t, exec (.keyDown k) s = .next t ∧ t = { s with rows := t.rows, last := .done } ∧
      (k = s.cfg.deleteKey → ∀ r : Fin 8,
        t.rows[r] = if r = 0 ∨ r = 4 then s.rows[r] &&& 0xFE#8 else s.rows[r]) ∧
      (k ≠ s.cfg.deleteKey → keymapEntry s.cfg k = none → t.rows = s.rows) ∧
      (k ≠ s.cfg.deleteKey → ∀ e, keymapEntry s.cfg k = some e → ∀ r : Fin 8,
        t.rows[r] = if r.val = (e >>> 5).toNat then s.rows[r] &&& ~~~(e &&& 0x1F#8) else s.rows[r]) ∧
      (∀ (r : Fin 8) (j : Nat), 5 ≤ j → t.rows[r].getLsbD j = s.rows[r].getLsbD j)

/-- 41_keyboard.md R144: KEY_UP sets the bits KEY_DOWN clears. -/
def Obligations.KeyUpSetsTheKeysBits : Prop :=
  ∀ (s : State) (k : HostKey), s.Ready →
    encode (.keyUp k) = 0x60#8 ++ k ++ 0x00#8 ∧
    ∃ t, exec (.keyUp k) s = .next t ∧ t = { s with rows := t.rows, last := .done } ∧
      (k = s.cfg.deleteKey → ∀ r : Fin 8,
        t.rows[r] = if r = 0 ∨ r = 4 then s.rows[r] ||| 0x01#8 else s.rows[r]) ∧
      (k ≠ s.cfg.deleteKey → keymapEntry s.cfg k = none → t.rows = s.rows) ∧
      (k ≠ s.cfg.deleteKey → ∀ e, keymapEntry s.cfg k = some e → ∀ r : Fin 8,
        t.rows[r] = if r.val = (e >>> 5).toNat then s.rows[r] ||| (e &&& 0x1F#8) else s.rows[r]) ∧
      (∀ (r : Fin 8) (j : Nat), 5 ≤ j → t.rows[r].getLsbD j = s.rows[r].getLsbD j)

/-- 41_keyboard.md R145: KB_RESET releases every key, in every phase before the end; a second one changes nothing, and, where
`ROW_RESET` has the column bits set, nor does a KEY_UP after it. -/
def Obligations.KbResetReleasesEveryKey : Prop :=
  ∀ s : State, s.Ready →
    encode .kbReset = 0x70000000#32 ∧
    ∃ t, exec .kbReset s = .next t ∧ t = { s with rows := t.rows, last := .done } ∧
      (∀ r : Fin 8, t.rows[r] = s.cfg.rowReset) ∧ exec .kbReset t = .next t ∧
      (s.cfg.rowReset &&& 0x1F#8 = 0x1F#8 → ∀ k : HostKey, exec (.keyUp k) t = .next t)

/-- 60_exceptions.md R234: KEY_DOWN and KEY_UP of an unmapped host key end with no result and no state change. -/
def Obligations.UnmappedHostKeysAreIgnored : Prop :=
  ∀ (s : State) (k : HostKey), s.Ready → k ≠ s.cfg.deleteKey → keymapEntry s.cfg k = none →
    exec (.keyDown k) s = .next { s with last := .done } ∧ exec (.keyUp k) s = .next { s with last := .done }

/-- 41_keyboard.md R150 (1) and W5: a mapped key's press and release are read back through SCAN_ROW of its row. The port is
the one 30_encoding.md R96 gives (92 D2). -/
def Obligations.KeyPressAndReleaseAreReadBack : Prop :=
  ∀ (s : State) (k : HostKey) (e : Byte) (c : Nat), s.Ready → k ≠ s.cfg.deleteKey → keymapEntry s.cfg k = some e →
    c < 5 → e.getLsbD c = true →
    ∃ t u x y, exec (.keyDown k) s = .next t ∧
      exec (.portIn (scanRowPort (e >>> 5).toNat)) t = .next { t with last := .value x } ∧ x.getLsbD c = false ∧
      exec (.keyUp k) t = .next u ∧
      exec (.portIn (scanRowPort (e >>> 5).toNat)) u = .next { u with last := .value y } ∧ y.getLsbD c = true

/-- SCAN_ROW r assembles to the PORT_IN that answers row r (30_encoding.md R95, R96; 92 D2). -/
def Obligations.ScanRowReadsItsRow : Prop :=
  ∀ (s : State) (r : Fin 8), s.Ready →
    ∃ i, expandLine { mnemonic := .scanRow, operands := [r.val] } = some [i] ∧
      exec i s = .next { s with last := .value s.rows[r] }

/-! ## The atlas -/

/-- 42_glyph_atlas.md R170: ATLAS_BUILD makes every pixel of the 64 normal and the 64 inverted cells from the ROM image,
whether or not SETUP has run, and changes nothing else of the block. -/
def Obligations.AtlasBuildExpandsEveryGlyph : Prop :=
  ∀ s : State, s.Ready →
    encode .atlasBuild = 0x90000000#32 ∧
    ∃ t, exec .atlasBuild s = .next t ∧ t = { s with atlas := t.atlas, atlasBuilt := true, last := .done } ∧
      ∀ g r x dy dx : Nat, g < 64 → r < 8 → x < 8 → dy < 2 → dx < 2 →
        ∀ b, b = romByte s.cfg (s.cfg.charsetBase + BitVec.ofNat 16 (8 * g + r)) →
          atlasPixel t.atlas g (2 * r + dy) (2 * x + dx) = (if b.getLsbD (7 - x) then .fg else .bg) ∧
          atlasPixel t.atlas (g + 64) (2 * r + dy) (2 * x + dx) = (if b.getLsbD (7 - x) then .bg else .fg)

/-- The atlas depends on the ROM image alone, and a second build changes nothing (42_glyph_atlas.md R174, R176; 92 D18;
W7). -/
def Obligations.AtlasBuildDependsOnTheRomImageAlone : Prop :=
  ∀ s₁ s₂ : State, s₁.Ready → s₂.Ready → s₁.cfg.romImage = s₂.cfg.romImage → s₁.cfg.charsetBase = s₂.cfg.charsetBase →
    ∃ t₁ t₂, exec .atlasBuild s₁ = .next t₁ ∧ exec .atlasBuild s₂ = .next t₂ ∧ t₁.atlas = t₂.atlas ∧
      exec .atlasBuild t₁ = .next t₁

/-- Every inverted pixel of a built atlas is the opposite of the normal one, 1024 pixels to its left on the atlas surface
(42_glyph_atlas.md R172, R173; 92 D15). -/
def Obligations.InvertedCellsAreTheOppositeOfNormalOnes : Prop :=
  ∀ s : State, s.Ready → ∃ t, exec .atlasBuild s = .next t ∧
    ∀ x y : Nat, x < 1024 → y < 16 → surfacePixel t.atlas (x + 1024) y = (surfacePixel t.atlas x y).invert

/-! ## Redraw -/

/-- REDRAW draws the cell of display row r, column k from the code 33 r + k bytes after the display file's base, read raw,
and presents the screen; nothing else of the block changes (43_frame.md R199 to R203; 92 D11 to D14, D16, D35). -/
def Obligations.RedrawDrawsEveryCellFromItsCode : Prop :=
  ∀ s : State, s.DrawReady →
    ∃ t, exec .redraw s = .next t ∧
      t = { s with screen := t.screen, presented := s.presented ++ [t.screen], last := .done } ∧
      ∀ row col : Nat, row < 24 → col < 32 →
        ∀ c, c = s.mem.readByte (s.displayPointer + s.cfg.rowBaseOffset + BitVec.ofNat 16 (33 * row + col)) →
          (c.toNat < 0x80 → t.screen.cell row col = .drawn s.atlas[cellIndex c]) ∧
          (0x80 ≤ c.toNat →
            (s.cfg.highCodePolicy = .unchanged → t.screen.cell row col = s.screen.cell row col) ∧
            (s.cfg.highCodePolicy = .mask7 → t.screen.cell row col = .drawn s.atlas[cellIndex (c &&& 0x7F#8)]) ∧
            (s.cfg.highCodePolicy = .blank →
              ∃ img, t.screen.cell row col = .drawn img ∧ ∀ y x : Nat, imagePixel img y x = .bg))

/-- The screen pixels of a cell with a code below 0x80 are the atlas surface's (43_frame.md R201, 42_glyph_atlas.md R173;
92 D15, D16). -/
def Obligations.PresentedPixelsAreAtlasPixels : Prop :=
  ∀ (s : State) (row col y x : Nat), s.DrawReady → row < 24 → col < 32 → y < 16 → x < 16 →
    ∀ c, c = s.mem.readByte (s.displayPointer + s.cfg.rowBaseOffset + BitVec.ofNat 16 (33 * row + col)) →
      c.toNat < 0x80 →
      ∃ t frame, exec .redraw s = .next t ∧ t.presented = s.presented ++ [frame] ∧
        frame.pixel (16 * row + y) (16 * col + x) = surfacePixel s.atlas (16 * c.toNat + x) y

/-- 30_encoding.md R91: the display-file pointer REDRAW walks from is the u16 stored little-endian at
`DFILE_PTR_ADDR`. -/
def Obligations.DisplayPointerIsLittleEndian : Prop :=
  ∀ (s : State) (p : Addr), s.DrawReady →
    p = (s.mem.readByte s.cfg.dfilePtrAddr).setWidth 16 |||
      ((s.mem.readByte (s.cfg.dfilePtrAddr + 1#16)).setWidth 16 <<< 8) →
    s.displayPointer = p ∧
    ∃ t, exec .redraw s = .next t ∧ t.screen = walk s.cfg s.mem s.atlas p s.screen

/-- 43_frame.md R206: REDRAW completes whatever the pointer, and a code past 0xFFFF is read from the address modulo
0x10000. -/
def Obligations.AnyDisplayPointerIsValid : Prop :=
  ∀ s : State, s.DrawReady →
    ∃ t, exec .redraw s = .next t ∧ t.fault = none ∧
      ∀ row col : Nat, row < 24 → col < 32 → ∀ a : Addr,
        a.toNat = (s.displayPointer.toNat + s.cfg.rowBaseOffset.toNat + (33 * row + col)) % 0x10000 →
        t.screen.cell row col =
          blitCell s.cfg.highCodePolicy s.atlas (s.mem.readByte a) (s.screen.cell row col)

/-- The walk that reads by the layout of 30_encoding.md R92 meets the screen of the counting loop of 43_frame.md R200, which
skips one byte after each 32 codes (92 D12, D13). -/
def Obligations.WalkMeetsTheLoopOfTheSpec : Prop :=
  ∀ (cfg : Config) (mem : Memory) (atlas : Atlas) (p : Addr) (sc : Screen),
    loopWalk cfg mem atlas p sc = walk cfg mem atlas p sc

/-- A REDRAW whose codes are all below 0x80, or any REDRAW under Mask7 or Blank, draws every cell, and its frame does not
depend on the old screen (43_frame.md R204). -/
def Obligations.FullRedrawForgetsTheOldScreen : Prop :=
  ∀ (s : State) (sc : Screen), s.DrawReady →
    (s.cfg.highCodePolicy ≠ .unchanged ∨
      ∀ row col : Nat, row < 24 → col < 32 →
        (s.mem.readByte (s.displayPointer + s.cfg.rowBaseOffset + BitVec.ofNat 16 (33 * row + col))).toNat < 0x80) →
    ∃ t u, exec .redraw s = .next t ∧ exec .redraw { s with screen := sc } = .next u ∧ t.screen = u.screen ∧
      t.presented = u.presented ∧
      ∀ row col : Nat, row < 24 → col < 32 → ∃ img, t.screen.cell row col = .drawn img

/-- W9 (43_frame.md R209): 32 codes 0 draw display row 0 as 32 copies of cell 0, whatever the terminator's place holds, and
row 1 starts 33 bytes after the base (92 D13). -/
def Obligations.ZeroCodesDrawRowZeroAsGlyphZero : Prop :=
  ∀ (s : State) (base : Addr), s.DrawReady → base = s.displayPointer + s.cfg.rowBaseOffset →
    (∀ k : Nat, k < 32 → s.mem.readByte (base + BitVec.ofNat 16 k) = 0x00#8) →
    ∃ t, exec .redraw s = .next t ∧ (∀ k : Nat, k < 32 → t.screen.cell 0 k = .drawn s.atlas[0]) ∧
      t.screen.cell 1 0 =
        blitCell s.cfg.highCodePolicy s.atlas (s.mem.readByte (base + 33#16)) (s.screen.cell 1 0)

/-! ## Frames -/

/-- A slice is one engine step after another, `STEPS_PER_FRAME` of them (43_frame.md R191), and a FRAME whose slice ends is
that slice from the phase Running, its drain, and then the whole of REDRAW, or the end of the run (R190, R198; 92 D10,
D21). -/
def Obligations.FrameIsSliceThenDrainThenRedraw : Prop :=
  (∀ s : State, slice 0 s = some s) ∧
  (∀ (n : Nat) (s : State), slice (n + 1) s = (engineStep s.engine.step none s).bind (slice n)) ∧
  (∀ s u : State, s.DrawReady → slice s.cfg.stepsPerFrame { s with phase := .running } = some u →
    ∃ t, exec .frame s = .next t ∧
      (u.drained.quit = false → t.phase = .running ∧ exec .redraw u.drained = .next t) ∧
      (u.drained.quit = true → t = { u.drained with phase := .quit, last := .done }))

/-- A FRAME is stuck exactly if one of the engine steps of its slice never ends: the run never ends (43_frame.md R192, 92 D23;
70_reset_and_hazards.md R273; the stop as a fault is log 13). -/
def Obligations.FrameIsStuckExactlyIfAnEngineStepNeverEnds : Prop :=
  ∀ s : State, s.DrawReady →
    (exec .frame s = .fault .engineHang ↔
      ∃ (n : Nat) (t : State), n < s.cfg.stepsPerFrame ∧ slice n s.started = some t ∧
        engineStep t.engine.step none t = none)

/-- 43_frame.md R197: FRAME runs REDRAW only when `quit` is false after the drain. -/
def Obligations.FrameRedrawsOnlyIfNotQuitting : Prop :=
  ∀ s u : State, s.DrawReady → s.sliced = some u →
    ∃ t, exec .frame s = .next t ∧ t.quit = u.drained.quit ∧
      (t.quit = true → t.screen = s.screen ∧ t.presented = s.presented) ∧
      (t.quit = false → exec .redraw u.drained = .next t ∧ t.presented = s.presented ++ [t.screen])

/-- Each transaction of the engine is the operation of its callback, with the result that operation answers (40_bus.md R115,
41_keyboard.md R149); a step goes on as its latest result says, and ends or never ends (43_frame.md R192, 92 D23); and no
step changes a row. That the engine is a table of steps, of which the listed one is taken, is the model's form (log 13). -/
def Obligations.EngineTransactionsAreTheFiveOperations : Prop :=
  (∀ (s : State) (a : Addr) (v : Byte) (k : EngineStep) (latest : Option Byte), s.BusReady →
    (∃ b, exec (.fetch a) s = .next { s with last := .value b } ∧
      engineStep (.fetch a k) latest s = engineStep k (some b) s) ∧
    (∃ b, exec (.read a) s = .next { s with last := .value b } ∧
      engineStep (.read a k) latest s = engineStep k (some b) s) ∧
    (∃ t, exec (.write a v) s = .next t ∧
      engineStep (.write a v k) latest s = engineStep k latest { t with last := s.last }) ∧
    (∃ b, exec (.portIn a) s = .next { s with last := .value b } ∧
      engineStep (.portIn a k) latest s = engineStep k (some b) s) ∧
    (∃ t, exec (.portOut a v) s = .next t ∧
      engineStep (.portOut a v k) latest s = engineStep k latest { t with last := s.last })) ∧
  (∀ (latest : Option Byte) (s : State),
    (∀ n : Nat, engineStep (.done n) latest s = some { s with engine := { s.engine with state := n } }) ∧
    engineStep .hang latest s = none ∧
    ∀ (v : Byte) (k₁ k₂ : EngineStep),
      (latest = some v → engineStep (.ifResult v k₁ k₂) latest s = engineStep k₁ latest s) ∧
      (latest ≠ some v → engineStep (.ifResult v k₁ k₂) latest s = engineStep k₂ latest s)) ∧
  (∀ (e : EngineAgent) (k : EngineStep), e.steps.lookup e.state = some k → e.step = k) ∧
  (∀ (k : EngineStep) (latest : Option Byte) (s t : State), engineStep k latest s = some t →
    t.rows = s.rows ∧ t.engine.steps = s.engine.steps)

/-- 20_memory.md R65: during a slice no row changes, so every PORT_IN of it reads the rows its frame began with; the rows the
drain leaves are the ones the next slice begins with. -/
def Obligations.RowsAreFixedDuringASlice : Prop :=
  (∀ (n : Nat) (s u : State) (p : Addr), slice n s = some u →
    u.rows = s.rows ∧ u.portInByte p = s.portInByte p) ∧
  (∀ s u : State, s.DrawReady → s.sliced = some u → ∃ t, exec .frame s = .next t ∧ t.rows = u.drained.rows ∧
    ∀ p : Addr, t.started.portInByte p = u.drained.portInByte p)

/-- The drain applies its events in order, each key event as KEY_DOWN or KEY_UP, other events as nothing, up to a quit,
after which none is applied; and the drain of a FRAME is that of the events the host answers, applied to what the slice
left (43_frame.md R193 to R196; 92 D20; the host as a table is log 15). -/
def Obligations.DrainAppliesEventsInOrderUpToAQuit : Prop :=
  (∀ (s : State) (k : HostKey) (es : List HostEvent), s.Ready →
    (∃ t, exec (.keyDown k) s = .next t ∧
      drainEvents (.keyDown k :: es) s = drainEvents es { t with last := s.last }) ∧
    (∃ t, exec (.keyUp k) s = .next t ∧
      drainEvents (.keyUp k :: es) s = drainEvents es { t with last := s.last })) ∧
  (∀ (c : Nat) (es : List HostEvent) (s : State), drainEvents (.other c :: es) s = drainEvents es s) ∧
  (∀ (es rest : List HostEvent) (s : State), HostEvent.quit ∉ es →
    drainEvents (es ++ .quit :: rest) s = { drainEvents es s with quit := true }) ∧
  (∀ s : State, drainEvents [] s = s) ∧
  (∀ s : State, s.drained = drainEvents s.nextDrain { s with host := { s.host with state := s.host.drain.next } }) ∧
  (∀ (s : State) (d : HostDrain), s.host.drains.lookup s.host.state = some d →
    s.nextDrain = d.events ∧ s.drained.host = { s.host with state := d.next }) ∧
  (∀ s u : State, s.DrawReady → s.sliced = some u → ∃ t, exec .frame s = .next t ∧
    t.rows = (drainEvents s.nextDrain u).rows ∧ t.quit = (drainEvents s.nextDrain u).quit)

/-- A quit event in a drain is seen by that drain's FRAME, whose slice has completed; after it no engine step runs and no
frame is presented (70_reset_and_hazards.md, Quit latency). -/
def Obligations.QuitEventEndsTheRunAfterItsSlice : Prop :=
  ∀ s u : State, s.DrawReady → s.sliced = some u → HostEvent.quit ∈ s.nextDrain →
    ∃ t, exec .frame s = .next t ∧ t.quit = true ∧ t.phase = .quit ∧
      t.mem = u.mem ∧ t.engine = u.engine ∧ t.presented = s.presented ∧
      ∀ t₁, step t = .next t₁ →
        t₁.engine = t.engine ∧ t₁.presented = t.presented ∧ ∀ t₂, step t₁ ≠ .next t₂

/-- 10_state.md R30: `quit` is false at reset, is set by a host quit event during a drain and by nothing else, and is never
cleared. -/
def Obligations.QuitIsSetByAQuitEventAloneAndNeverCleared : Prop :=
  (∀ (cfg : Config) (engine : EngineAgent) (host : HostAgent), (State.powerOn cfg engine host).quit = false) ∧
  (∀ s u : State, s.DrawReady → s.sliced = some u → HostEvent.quit ∈ s.nextDrain →
    ∃ t, exec .frame s = .next t ∧ t.quit = true) ∧
  (∀ s t : State, step s = .next t →
    (s.quit = true → t.quit = true) ∧
    (s.quit = false → t.quit = true → HostEvent.quit ∈ s.nextDrain))

/-- The memory frame of FRAME: a cell for which its slice issues no WRITE reads as before (43_frame.md R190, R205). -/
def Obligations.FrameLeavesUnwrittenMemoryAlone : Prop :=
  ∀ s u : State, s.DrawReady → s.sliced = some u →
    ∃ t, exec .frame s = .next t ∧
      t = { s with mem := t.mem, rows := t.rows, screen := t.screen, phase := t.phase, quit := t.quit,
                   presented := t.presented, engine := { s.engine with state := t.engine.state },
                   host := { s.host with state := t.host.state }, last := .done } ∧
      ∀ a : Addr, a ∉ sliceStores s.cfg.stepsPerFrame s.started → t.mem.readByte a = s.mem.readByte a

/-- A key pressed and released within one drain leaves every row as it was, so no later PORT_IN sees it
(70_reset_and_hazards.md R265). -/
def Obligations.PressAndReleaseInOneDrainIsNeverSeen : Prop :=
  ∀ (s u : State) (k : HostKey) (e : Byte), s.DrawReady → s.sliced = some u →
    k ≠ s.cfg.deleteKey → keymapEntry s.cfg k = some e →
    s.nextDrain = [.keyDown k, .keyUp k] →
    s.rows[scanRow e] &&& (e &&& 0x1F#8) = e &&& 0x1F#8 →
    ∃ t, exec .frame s = .next t ∧ t.rows = s.rows

/-! ## The whole machine -/

/-- Which operations can change which state (10_state.md R21 to R31; the model's own fields: log 9 to log 11). -/
def Obligations.EachStateIsChangedByItsOperationsAlone : Prop :=
  ∀ (i : Instr) (s t : State), exec i s = .next t →
    t.cfg = s.cfg ∧ t.pending = s.pending ∧ t.stage = s.stage ∧
    ((∀ a v, i ≠ .write a v) → i ≠ .setup → i ≠ .frame → t.mem = s.mem) ∧
    ((∀ k, i ≠ .keyDown k) → (∀ k, i ≠ .keyUp k) → i ≠ .kbReset → i ≠ .frame → t.rows = s.rows) ∧
    (i ≠ .setup → t.setupDone = s.setupDone) ∧
    (i ≠ .atlasBuild → t.atlas = s.atlas ∧ t.atlasBuilt = s.atlasBuilt) ∧
    (i ≠ .redraw → i ≠ .frame → t.screen = s.screen ∧ t.presented = s.presented) ∧
    (i ≠ .frame → t.phase = s.phase ∧ t.quit = s.quit ∧ t.engine = s.engine ∧ t.host = s.host)

/-- What a step never undoes: the configuration, SETUP, ATLAS_BUILD, presented frames, a quit, the end of the run
(10_state.md R20, R22, R27, R29 to R31); and no step starts from a set `fault` (R37; 92 D33). -/
def Obligations.StepsNeverGoBack : Prop :=
  ∀ s t : State, step s = .next t →
    s.fault = none ∧ t.cfg = s.cfg ∧
    (s.setupDone = true → t.setupDone = true) ∧
    (s.atlasBuilt = true → t.atlasBuilt = true) ∧
    (s.quit = true → t.quit = true) ∧
    (s.phase = .quit → t.phase = .quit) ∧ (s.phase = .failed → t.phase = .failed) ∧
    (s.phase = .running → t.phase ≠ .init) ∧
    ∃ frames, t.presented = s.presented ++ frames ∧ frames.length ≤ 1

/-- Every step keeps the invariant: canonical memory, the patched image in both ROM windows, the rows' upper bits, `quit`
against `phase`, the atlas the image gives, and no frame before SETUP and ATLAS_BUILD. -/
def Obligations.InvariantKeptByEveryStep : Prop :=
  ∀ s t : State, s.Inv → step s = .next t → t.Inv

/-- The invariant holds at power-on under every configuration, engine and host, and so at reset. -/
def Obligations.InvariantHoldsAtPowerOn : Prop :=
  (∀ (cfg : Config) (engine : EngineAgent) (host : HostAgent), (State.powerOn cfg engine host).Inv) ∧ State.reset.Inv

/-- The power-on values 10_state.md gives (R22 to R24, R27, R29 to R31, R37), for the rows those of 92 D6; and a pixel of the
screen, which 10_state.md R28 and 92 D19 leave arbitrary, is the model's free value of its place (DESIGN CHOICE, log 7). -/
def Obligations.PowerOnHoldsTheResetValues : Prop :=
  ∀ (cfg : Config) (engine : EngineAgent) (host : HostAgent) (s : State), s = State.powerOn cfg engine host →
    s.setupDone = false ∧ s.atlasBuilt = false ∧ (∀ r : Fin 8, s.rows[r] = cfg.rowReset) ∧
    (∀ y x : Nat, y < 384 → x < 512 → s.screen.pixel y x = Config.undrawnPixel y x) ∧
    s.phase = .init ∧ s.quit = false ∧ s.presented = [] ∧ s.fault = none

/-- Boot with a host that creates both surfaces: seven steps lead from power-on to the frame loop with memory set up, the
keys released and the atlas built, and the eighth is a FRAME (70_reset_and_hazards.md R261; 92 D27; log 11). -/
def Obligations.BootReachesTheFrameLoop : Prop :=
  ∀ (cfg : Config) (engine : EngineAgent) (host : HostAgent),
    configOk cfg = true → host.screenSurfaceOk = true → host.atlasSurfaceOk = true →
    ∃ t, core.run 7 (State.powerOn cfg engine host) = .next t ∧
      t.DrawReady ∧ t.stage = .loop ∧ t.phase = .init ∧ t.presented = [] ∧ t.quit = false ∧
      t.mem = setupMemory cfg ∧ t.atlas = buildAtlas cfg ∧ (∀ r : Fin 8, t.rows[r] = cfg.rowReset) ∧
      t.engine = engine ∧ step t = exec .frame t

/-- Boot fails at step 1 with an ill-formed configuration, at step 4 or 6 with a host that cannot create a surface; then no
frame is presented, no further step is taken by the orchestrator, and a word is refused (60_exceptions.md R232,
70_reset_and_hazards.md R264; 92 D26, D27; V110; log 11, log 12, log 17). -/
def Obligations.BootFailuresEndTheRun : Prop :=
  ∀ (cfg : Config) (engine : EngineAgent) (host : HostAgent) (s : State), s = State.powerOn cfg engine host →
    (configOk cfg = false → step s = .next (s.raise (.refused .badConfig) none)) ∧
    (configOk cfg = true → host.screenSurfaceOk = false →
      ∃ t, core.run 4 s = .next t ∧ t.phase = .failed ∧ t.last = .setupFailure ∧ t.fault = none ∧
        t.setupDone = true ∧ t.atlasBuilt = false ∧ t.presented = [] ∧
        step t = .refused .runOver ∧
        exec .frame t = .next (t.raise (.refused .terminal) (some 0xB0000000#32))) ∧
    (configOk cfg = true → host.screenSurfaceOk = true → host.atlasSurfaceOk = false →
      ∃ t, core.run 6 s = .next t ∧ t.phase = .failed ∧ t.last = .setupFailure ∧ t.fault = none ∧
        t.setupDone = true ∧ t.atlasBuilt = true ∧ t.presented = [] ∧
        step t = .refused .runOver ∧
        exec .frame t = .next (t.raise (.refused .terminal) (some 0xB0000000#32)))

/-- Canonical memories that read alike at every address are equal data (the form is the model's, log 5). -/
def Obligations.CanonicalMemoriesThatReadAlikeAreEqual : Prop :=
  ∀ m₁ m₂ : Memory, m₁.wf = true → m₂.wf = true → (∀ a : Addr, m₁.readByte a = m₂.readByte a) → m₁ = m₂
end

