-- ==== Sys2Proof/Laws/State.lean ====
section
/-! SUPPORT. One lemma per field per named update of State. -/

namespace Sys2Proof.Machine

/-! ### `done` -/

@[simp] theorem State.done_mem (s : State) : (s.done).mem = s.mem := rfl
@[simp] theorem State.done_setupDone (s : State) : (s.done).setupDone = s.setupDone := rfl
@[simp] theorem State.done_rows (s : State) : (s.done).rows = s.rows := rfl
@[simp] theorem State.done_atlas (s : State) : (s.done).atlas = s.atlas := rfl
@[simp] theorem State.done_atlasBuilt (s : State) : (s.done).atlasBuilt = s.atlasBuilt := rfl
@[simp] theorem State.done_screen (s : State) : (s.done).screen = s.screen := rfl
@[simp] theorem State.done_phase (s : State) : (s.done).phase = s.phase := rfl
@[simp] theorem State.done_quit (s : State) : (s.done).quit = s.quit := rfl
@[simp] theorem State.done_presented (s : State) : (s.done).presented = s.presented := rfl
@[simp] theorem State.done_fault (s : State) : (s.done).fault = s.fault := rfl
@[simp] theorem State.done_cfg (s : State) : (s.done).cfg = s.cfg := rfl
@[simp] theorem State.done_engine (s : State) : (s.done).engine = s.engine := rfl
@[simp] theorem State.done_host (s : State) : (s.done).host = s.host := rfl
@[simp] theorem State.done_pending (s : State) : (s.done).pending = s.pending := rfl
@[simp] theorem State.done_stage (s : State) : (s.done).stage = s.stage := rfl
@[simp] theorem State.done_last (s : State) : (s.done).last = .done := rfl

/-! ### `answer` -/

@[simp] theorem State.answer_mem (s : State) (v : Byte) : (s.answer v).mem = s.mem := rfl
@[simp] theorem State.answer_setupDone (s : State) (v : Byte) : (s.answer v).setupDone = s.setupDone := rfl
@[simp] theorem State.answer_rows (s : State) (v : Byte) : (s.answer v).rows = s.rows := rfl
@[simp] theorem State.answer_atlas (s : State) (v : Byte) : (s.answer v).atlas = s.atlas := rfl
@[simp] theorem State.answer_atlasBuilt (s : State) (v : Byte) : (s.answer v).atlasBuilt = s.atlasBuilt := rfl
@[simp] theorem State.answer_screen (s : State) (v : Byte) : (s.answer v).screen = s.screen := rfl
@[simp] theorem State.answer_phase (s : State) (v : Byte) : (s.answer v).phase = s.phase := rfl
@[simp] theorem State.answer_quit (s : State) (v : Byte) : (s.answer v).quit = s.quit := rfl
@[simp] theorem State.answer_presented (s : State) (v : Byte) : (s.answer v).presented = s.presented := rfl
@[simp] theorem State.answer_fault (s : State) (v : Byte) : (s.answer v).fault = s.fault := rfl
@[simp] theorem State.answer_cfg (s : State) (v : Byte) : (s.answer v).cfg = s.cfg := rfl
@[simp] theorem State.answer_engine (s : State) (v : Byte) : (s.answer v).engine = s.engine := rfl
@[simp] theorem State.answer_host (s : State) (v : Byte) : (s.answer v).host = s.host := rfl
@[simp] theorem State.answer_pending (s : State) (v : Byte) : (s.answer v).pending = s.pending := rfl
@[simp] theorem State.answer_stage (s : State) (v : Byte) : (s.answer v).stage = s.stage := rfl
@[simp] theorem State.answer_last (s : State) (v : Byte) : (s.answer v).last = .value v := rfl

/-! ### `raise` -/

@[simp] theorem State.raise_mem (s : State) (r : Stop) (w : Option Word) : (s.raise r w).mem = s.mem := rfl
@[simp] theorem State.raise_setupDone (s : State) (r : Stop) (w : Option Word) : (s.raise r w).setupDone = s.setupDone := rfl
@[simp] theorem State.raise_rows (s : State) (r : Stop) (w : Option Word) : (s.raise r w).rows = s.rows := rfl
@[simp] theorem State.raise_atlas (s : State) (r : Stop) (w : Option Word) : (s.raise r w).atlas = s.atlas := rfl
@[simp] theorem State.raise_atlasBuilt (s : State) (r : Stop) (w : Option Word) : (s.raise r w).atlasBuilt = s.atlasBuilt := rfl
@[simp] theorem State.raise_screen (s : State) (r : Stop) (w : Option Word) : (s.raise r w).screen = s.screen := rfl
@[simp] theorem State.raise_phase (s : State) (r : Stop) (w : Option Word) : (s.raise r w).phase = s.phase := rfl
@[simp] theorem State.raise_quit (s : State) (r : Stop) (w : Option Word) : (s.raise r w).quit = s.quit := rfl
@[simp] theorem State.raise_presented (s : State) (r : Stop) (w : Option Word) : (s.raise r w).presented = s.presented := rfl
@[simp] theorem State.raise_fault (s : State) (r : Stop) (w : Option Word) : (s.raise r w).fault = some { reason := r, word := w } := rfl
@[simp] theorem State.raise_cfg (s : State) (r : Stop) (w : Option Word) : (s.raise r w).cfg = s.cfg := rfl
@[simp] theorem State.raise_engine (s : State) (r : Stop) (w : Option Word) : (s.raise r w).engine = s.engine := rfl
@[simp] theorem State.raise_host (s : State) (r : Stop) (w : Option Word) : (s.raise r w).host = s.host := rfl
@[simp] theorem State.raise_pending (s : State) (r : Stop) (w : Option Word) : (s.raise r w).pending = s.pending := rfl
@[simp] theorem State.raise_stage (s : State) (r : Stop) (w : Option Word) : (s.raise r w).stage = s.stage := rfl
@[simp] theorem State.raise_last (s : State) (r : Stop) (w : Option Word) : (s.raise r w).last = .stopped r := rfl

/-! ### `failSetup` -/

@[simp] theorem State.failSetup_mem (s : State) : (s.failSetup).mem = s.mem := rfl
@[simp] theorem State.failSetup_setupDone (s : State) : (s.failSetup).setupDone = s.setupDone := rfl
@[simp] theorem State.failSetup_rows (s : State) : (s.failSetup).rows = s.rows := rfl
@[simp] theorem State.failSetup_atlas (s : State) : (s.failSetup).atlas = s.atlas := rfl
@[simp] theorem State.failSetup_atlasBuilt (s : State) : (s.failSetup).atlasBuilt = s.atlasBuilt := rfl
@[simp] theorem State.failSetup_screen (s : State) : (s.failSetup).screen = s.screen := rfl
@[simp] theorem State.failSetup_phase (s : State) : (s.failSetup).phase = .failed := rfl
@[simp] theorem State.failSetup_quit (s : State) : (s.failSetup).quit = s.quit := rfl
@[simp] theorem State.failSetup_presented (s : State) : (s.failSetup).presented = s.presented := rfl
@[simp] theorem State.failSetup_fault (s : State) : (s.failSetup).fault = s.fault := rfl
@[simp] theorem State.failSetup_cfg (s : State) : (s.failSetup).cfg = s.cfg := rfl
@[simp] theorem State.failSetup_engine (s : State) : (s.failSetup).engine = s.engine := rfl
@[simp] theorem State.failSetup_host (s : State) : (s.failSetup).host = s.host := rfl
@[simp] theorem State.failSetup_pending (s : State) : (s.failSetup).pending = s.pending := rfl
@[simp] theorem State.failSetup_stage (s : State) : (s.failSetup).stage = s.stage := rfl
@[simp] theorem State.failSetup_last (s : State) : (s.failSetup).last = .setupFailure := rfl

/-! ### `setRow` -/

@[simp] theorem State.setRow_mem (s : State) (r : Fin 8) (v : Byte) : (s.setRow r v).mem = s.mem := rfl
@[simp] theorem State.setRow_setupDone (s : State) (r : Fin 8) (v : Byte) : (s.setRow r v).setupDone = s.setupDone := rfl
@[simp] theorem State.setRow_rows (s : State) (r : Fin 8) (v : Byte) : (s.setRow r v).rows = s.rows.set r v := rfl
@[simp] theorem State.setRow_atlas (s : State) (r : Fin 8) (v : Byte) : (s.setRow r v).atlas = s.atlas := rfl
@[simp] theorem State.setRow_atlasBuilt (s : State) (r : Fin 8) (v : Byte) : (s.setRow r v).atlasBuilt = s.atlasBuilt := rfl
@[simp] theorem State.setRow_screen (s : State) (r : Fin 8) (v : Byte) : (s.setRow r v).screen = s.screen := rfl
@[simp] theorem State.setRow_phase (s : State) (r : Fin 8) (v : Byte) : (s.setRow r v).phase = s.phase := rfl
@[simp] theorem State.setRow_quit (s : State) (r : Fin 8) (v : Byte) : (s.setRow r v).quit = s.quit := rfl
@[simp] theorem State.setRow_presented (s : State) (r : Fin 8) (v : Byte) : (s.setRow r v).presented = s.presented := rfl
@[simp] theorem State.setRow_fault (s : State) (r : Fin 8) (v : Byte) : (s.setRow r v).fault = s.fault := rfl
@[simp] theorem State.setRow_cfg (s : State) (r : Fin 8) (v : Byte) : (s.setRow r v).cfg = s.cfg := rfl
@[simp] theorem State.setRow_engine (s : State) (r : Fin 8) (v : Byte) : (s.setRow r v).engine = s.engine := rfl
@[simp] theorem State.setRow_host (s : State) (r : Fin 8) (v : Byte) : (s.setRow r v).host = s.host := rfl
@[simp] theorem State.setRow_pending (s : State) (r : Fin 8) (v : Byte) : (s.setRow r v).pending = s.pending := rfl
@[simp] theorem State.setRow_stage (s : State) (r : Fin 8) (v : Byte) : (s.setRow r v).stage = s.stage := rfl
@[simp] theorem State.setRow_last (s : State) (r : Fin 8) (v : Byte) : (s.setRow r v).last = s.last := rfl

/-! ### `releaseAll` -/

@[simp] theorem State.releaseAll_mem (s : State) : (s.releaseAll).mem = s.mem := rfl
@[simp] theorem State.releaseAll_setupDone (s : State) : (s.releaseAll).setupDone = s.setupDone := rfl
@[simp] theorem State.releaseAll_rows (s : State) : (s.releaseAll).rows = Vector.replicate 8 s.cfg.rowReset := rfl
@[simp] theorem State.releaseAll_atlas (s : State) : (s.releaseAll).atlas = s.atlas := rfl
@[simp] theorem State.releaseAll_atlasBuilt (s : State) : (s.releaseAll).atlasBuilt = s.atlasBuilt := rfl
@[simp] theorem State.releaseAll_screen (s : State) : (s.releaseAll).screen = s.screen := rfl
@[simp] theorem State.releaseAll_phase (s : State) : (s.releaseAll).phase = s.phase := rfl
@[simp] theorem State.releaseAll_quit (s : State) : (s.releaseAll).quit = s.quit := rfl
@[simp] theorem State.releaseAll_presented (s : State) : (s.releaseAll).presented = s.presented := rfl
@[simp] theorem State.releaseAll_fault (s : State) : (s.releaseAll).fault = s.fault := rfl
@[simp] theorem State.releaseAll_cfg (s : State) : (s.releaseAll).cfg = s.cfg := rfl
@[simp] theorem State.releaseAll_engine (s : State) : (s.releaseAll).engine = s.engine := rfl
@[simp] theorem State.releaseAll_host (s : State) : (s.releaseAll).host = s.host := rfl
@[simp] theorem State.releaseAll_pending (s : State) : (s.releaseAll).pending = s.pending := rfl
@[simp] theorem State.releaseAll_stage (s : State) : (s.releaseAll).stage = s.stage := rfl
@[simp] theorem State.releaseAll_last (s : State) : (s.releaseAll).last = s.last := rfl

/-! ### `present` -/

@[simp] theorem State.present_mem (s : State) : (s.present).mem = s.mem := rfl
@[simp] theorem State.present_setupDone (s : State) : (s.present).setupDone = s.setupDone := rfl
@[simp] theorem State.present_rows (s : State) : (s.present).rows = s.rows := rfl
@[simp] theorem State.present_atlas (s : State) : (s.present).atlas = s.atlas := rfl
@[simp] theorem State.present_atlasBuilt (s : State) : (s.present).atlasBuilt = s.atlasBuilt := rfl
@[simp] theorem State.present_screen (s : State) : (s.present).screen = s.screen := rfl
@[simp] theorem State.present_phase (s : State) : (s.present).phase = s.phase := rfl
@[simp] theorem State.present_quit (s : State) : (s.present).quit = s.quit := rfl
@[simp] theorem State.present_presented (s : State) : (s.present).presented = s.presented ++ [s.screen] := rfl
@[simp] theorem State.present_fault (s : State) : (s.present).fault = s.fault := rfl
@[simp] theorem State.present_cfg (s : State) : (s.present).cfg = s.cfg := rfl
@[simp] theorem State.present_engine (s : State) : (s.present).engine = s.engine := rfl
@[simp] theorem State.present_host (s : State) : (s.present).host = s.host := rfl
@[simp] theorem State.present_pending (s : State) : (s.present).pending = s.pending := rfl
@[simp] theorem State.present_stage (s : State) : (s.present).stage = s.stage := rfl
@[simp] theorem State.present_last (s : State) : (s.present).last = s.last := rfl

/-! ### `issueNext` -/

@[simp] theorem State.issueNext_mem (s : State) (w : Word) : (s.issueNext w).mem = s.mem := rfl
@[simp] theorem State.issueNext_setupDone (s : State) (w : Word) : (s.issueNext w).setupDone = s.setupDone := rfl
@[simp] theorem State.issueNext_rows (s : State) (w : Word) : (s.issueNext w).rows = s.rows := rfl
@[simp] theorem State.issueNext_atlas (s : State) (w : Word) : (s.issueNext w).atlas = s.atlas := rfl
@[simp] theorem State.issueNext_atlasBuilt (s : State) (w : Word) : (s.issueNext w).atlasBuilt = s.atlasBuilt := rfl
@[simp] theorem State.issueNext_screen (s : State) (w : Word) : (s.issueNext w).screen = s.screen := rfl
@[simp] theorem State.issueNext_phase (s : State) (w : Word) : (s.issueNext w).phase = s.phase := rfl
@[simp] theorem State.issueNext_quit (s : State) (w : Word) : (s.issueNext w).quit = s.quit := rfl
@[simp] theorem State.issueNext_presented (s : State) (w : Word) : (s.issueNext w).presented = s.presented := rfl
@[simp] theorem State.issueNext_fault (s : State) (w : Word) : (s.issueNext w).fault = s.fault := rfl
@[simp] theorem State.issueNext_cfg (s : State) (w : Word) : (s.issueNext w).cfg = s.cfg := rfl
@[simp] theorem State.issueNext_engine (s : State) (w : Word) : (s.issueNext w).engine = s.engine := rfl
@[simp] theorem State.issueNext_host (s : State) (w : Word) : (s.issueNext w).host = s.host := rfl
@[simp] theorem State.issueNext_pending (s : State) (w : Word) : (s.issueNext w).pending = w :: s.pending := rfl
@[simp] theorem State.issueNext_stage (s : State) (w : Word) : (s.issueNext w).stage = s.stage := rfl
@[simp] theorem State.issueNext_last (s : State) (w : Word) : (s.issueNext w).last = s.last := rfl

@[simp] theorem State.row_setRow_same (s : State) (r : Fin 8) (v : Byte) : (s.setRow r v).row r = v := by
  simp [State.row, State.setRow]

theorem State.row_setRow_other (s : State) (r r' : Fin 8) (v : Byte) (h : r ≠ r') :
    (s.setRow r v).row r' = s.row r' := by
  simp only [State.row, State.setRow, Fin.getElem_fin]
  exact Vector.getElem_set_ne _ _ (fun e => h (Fin.ext e))

theorem State.row_setRow (s : State) (r r' : Fin 8) (v : Byte) :
    (s.setRow r v).row r' = if r = r' then v else s.row r' := by
  split
  · next h => subst h; simp
  · next h => exact s.row_setRow_other r r' v h

@[simp] theorem State.row_releaseAll (s : State) (r : Fin 8) : s.releaseAll.row r = s.cfg.rowReset := by
  simp [State.row]

/-- Two states with the same rows read the same row. -/
theorem State.row_congr {s t : State} (h : s.rows = t.rows) (r : Fin 8) : s.row r = t.row r := by
  simp [State.row, h]

end Sys2Proof.Machine
end

