-- ==== Sys2Proof/Laws/Memory.lean ====
section
/-! SUPPORT. The laws of memory: read after write, and that every memory operation keeps the canonical form. -/

namespace Sys2Proof.Machine

@[simp] theorem Memory.readByte_nil (a : Addr) : Memory.readByte [] a = Memory.unlisted := rfl

theorem lookup_cell (c : Host.Cell) (m : Memory) (n : Nat) :
    List.lookup n (c :: m) = if n = c.1 then some c.2 else List.lookup n m := by
  obtain ⟨k, v⟩ := c
  simp only [List.lookup_cons]
  by_cases h : n = k
  · simp [h]
  · have hb : (n == k) = false := beq_eq_false_iff_ne.mpr h
    simp [h, hb]

theorem lookup_put (m : Memory) (n n' : Nat) (v : Byte) :
    (m.put n v).lookup n' = if n' = n then some v else m.lookup n' := by
  induction m with
  | nil => rw [Memory.put, lookup_cell]
  | cons c m ih =>
    unfold Memory.put
    split
    · rw [lookup_cell]
    · split
      · next h => rw [lookup_cell, lookup_cell, h]; split <;> rfl
      · next h =>
        rw [lookup_cell, lookup_cell, ih]
        by_cases h' : n' = n
        · simp [h', h]
        · simp [h']

theorem lookup_drop (m : Memory) (n n' : Nat) :
    (m.drop n).lookup n' = if n' = n then none else m.lookup n' := by
  induction m with
  | nil => simp [Memory.drop]
  | cons c m ih =>
    unfold Memory.drop at ih ⊢
    rw [List.filter_cons]
    by_cases hc : c.1 = n
    · simp only [hc, bne_self_eq_false, Bool.false_eq_true, if_false, ih, lookup_cell]
      split <;> rfl
    · have hb : (c.1 != n) = true := by simp [hc]
      simp only [hb, if_true, lookup_cell, ih]
      by_cases h' : n' = n
      · have : ¬ n = c.1 := fun e => hc e.symm
        simp [h', this]
      · simp [h']

/-- A read after a write to the same address gives the value written. -/
@[simp] theorem Memory.readByte_writeByte_same (m : Memory) (a : Addr) (v : Byte) :
    (m.writeByte a v).readByte a = v := by
  unfold Memory.writeByte Memory.readByte
  split
  · next h => simp [lookup_drop, h]
  · simp [lookup_put]

/-- A write leaves every other address alone. -/
theorem Memory.readByte_writeByte_other (m : Memory) (a b : Addr) (v : Byte) (h : b ≠ a) :
    (m.writeByte a v).readByte b = m.readByte b := by
  have hn : b.toNat ≠ a.toNat := fun e => h (BitVec.eq_of_toNat_eq e)
  unfold Memory.writeByte Memory.readByte
  split
  · rw [lookup_drop, if_neg hn]
  · rw [lookup_put, if_neg hn]

theorem Memory.readByte_writeByte (m : Memory) (a b : Addr) (v : Byte) :
    (m.writeByte a v).readByte b = if b = a then v else m.readByte b := by
  split
  · next h => subst h; simp
  · next h => exact m.readByte_writeByte_other a b v h

/-- A store of a ROM byte and its ghost, read back. -/
theorem Memory.readByte_writeBoth (m : Memory) (o b : Addr) (v : Byte) :
    (m.writeBoth o v).readByte b = if b = o + Config.ghostOffset ∨ b = o then v else m.readByte b := by
  unfold Memory.writeBoth
  rw [Memory.readByte_writeByte, Memory.readByte_writeByte]
  by_cases h : b = o + Config.ghostOffset <;> by_cases h' : b = o <;> simp [h, h']

/-! ## The canonical form -/

theorem Memory.wf_iff (m : Memory) : m.wf = true ↔
    (m.Pairwise fun c d => c.1 < d.1) ∧ ∀ c ∈ m, c.1 < Config.memSize ∧ c.2 ≠ Memory.unlisted := by
  simp [Memory.wf]

@[simp] theorem Memory.wf_nil : Memory.wf [] = true := rfl

theorem mem_put (m : Memory) (n : Nat) (v : Byte) (c : Host.Cell) (h : c ∈ m.put n v) : c = (n, v) ∨ c ∈ m := by
  induction m with
  | nil => simpa [Memory.put] using h
  | cons d m ih =>
    unfold Memory.put at h
    split at h
    · simpa using h
    · split at h
      · simp only [List.mem_cons] at h ⊢
        exact h.imp_right .inr
      · simp only [List.mem_cons] at h ⊢
        rcases h with h | h
        · exact .inr (.inl h)
        · exact (ih h).imp_right .inr

theorem pairwise_put (m : Memory) (n : Nat) (v : Byte) (h : m.Pairwise fun c d => c.1 < d.1) :
    (m.put n v).Pairwise fun c d => c.1 < d.1 := by
  induction m with
  | nil => simp [Memory.put]
  | cons c m ih =>
    obtain ⟨hc, hm⟩ := List.pairwise_cons.mp h
    unfold Memory.put
    split
    · next hlt =>
      refine List.pairwise_cons.mpr ⟨fun d hd => ?_, h⟩
      rcases List.mem_cons.mp hd with rfl | hd
      · exact hlt
      · exact Nat.lt_trans hlt (hc d hd)
    · split
      · next heq => exact List.pairwise_cons.mpr ⟨fun d hd => heq ▸ hc d hd, hm⟩
      · next hlt hne =>
        refine List.pairwise_cons.mpr ⟨fun d hd => ?_, ih hm⟩
        rcases mem_put m n v d hd with rfl | hd
        · simp only; omega
        · exact hc d hd

/-- A write keeps the canonical form. -/
theorem Memory.wf_writeByte (m : Memory) (a : Addr) (v : Byte) (h : m.wf = true) : (m.writeByte a v).wf = true := by
  rw [Memory.wf_iff] at h ⊢
  obtain ⟨hp, hc⟩ := h
  unfold Memory.writeByte
  split
  · exact ⟨hp.filter _, fun c hm => hc c (List.mem_of_mem_filter hm)⟩
  · next hv =>
    refine ⟨pairwise_put m _ v hp, fun c hm => ?_⟩
    rcases mem_put m _ v c hm with rfl | hm
    · exact ⟨a.isLt, hv⟩
    · exact hc c hm

theorem Memory.wf_writeBoth (m : Memory) (o : Addr) (v : Byte) (h : m.wf = true) : (m.writeBoth o v).wf = true :=
  Memory.wf_writeByte _ _ _ (Memory.wf_writeByte m o v h)

theorem wf_foldl {α : Type} (f : Memory → α → Memory) (hf : ∀ m x, m.wf = true → (f m x).wf = true) (l : List α) :
    ∀ m : Memory, m.wf = true → (l.foldl f m).wf = true := by
  induction l with
  | nil => exact fun _ h => h
  | cons x l ih => exact fun m h => ih _ (hf m x h)

/-- Memory right after SETUP is canonical. -/
theorem setupMemory_wf (cfg : Config) : (setupMemory cfg).wf = true := by
  refine wf_foldl _ (fun m p h => m.wf_writeBoth p.1 p.2 h) _ _ (wf_foldl _ (fun m c h => ?_) _ _ Memory.wf_nil)
  split
  · exact m.wf_writeBoth _ _ h
  · exact h

theorem State.writeByte_wf (s : State) (a : Addr) (v : Byte) (h : s.mem.wf = true) :
    (s.writeByte a v).mem.wf = true := by
  unfold State.writeByte
  split
  · exact h
  · exact s.mem.wf_writeByte a v h

/-- Memory at reset is canonical. -/
theorem reset_memory_wf : State.reset.mem.wf = true := rfl

/-- In a canonical memory a listed cell is the one its address reads. -/
theorem Memory.lookup_of_mem (m : Memory) (h : m.wf = true) (c : Host.Cell) (hc : c ∈ m) : m.lookup c.1 = some c.2 := by
  replace h := ((Memory.wf_iff m).mp h).1
  induction m with
  | nil => cases hc
  | cons d m ih =>
    obtain ⟨hd, hm⟩ := List.pairwise_cons.mp h
    rw [lookup_cell]
    rcases List.mem_cons.mp hc with rfl | hc
    · simp
    · rw [if_neg (Nat.ne_of_gt (hd c hc)), ih hc hm]

end Sys2Proof.Machine
end

