-- ==== Sys2Proof/Laws/Ops.lean ====
section
/-! SUPPORT. For each shared operation, one lemma that says what it can do; the field lemmas follow from it. -/

namespace Sys2Proof.Machine

/-! ## The frame of an operation (60_exceptions.md R237) -/

/-- Everything `operateTo` can do when it answers a next state. -/
theorem operateTo_cases {w : Word} {own : Option Stop} {effect : Host.Outcome State Fault Refusal} {s t : State}
    (h : operateTo w own effect s = .next t) :
    s.fault = none ∧
    ((∃ r, s.commonRefusal = some r ∧ t = s.raise (.refused r) (some w)) ∨
     (s.commonRefusal = none ∧ ∃ r, own = some r ∧ t = s.raise r (some w)) ∨
     (s.commonRefusal = none ∧ own = none ∧ effect = .next t)) := by
  unfold operateTo at h
  split at h
  · cases h
  · next hf =>
    refine ⟨hf, ?_⟩
    split at h
    · next r hr => exact .inl ⟨r, hr, by cases h; rfl⟩
    · next hr =>
      cases own with
      | some r => exact .inr (.inl ⟨hr, r, rfl, by cases h; rfl⟩)
      | none => exact .inr (.inr ⟨hr, rfl, h⟩)

/-- Everything `operate` can do when it answers a next state. -/
theorem operate_cases {w : Word} {own : Option Stop} {run s t : State} (h : operate w own run s = .next t) :
    s.fault = none ∧
    ((∃ r, s.commonRefusal = some r ∧ t = s.raise (.refused r) (some w)) ∨
     (s.commonRefusal = none ∧ ∃ r, own = some r ∧ t = s.raise r (some w)) ∨
     (s.commonRefusal = none ∧ own = none ∧ t = run)) := by
  obtain ⟨hf, h | h | ⟨hr, ho, h⟩⟩ := operateTo_cases h
  · exact ⟨hf, .inl h⟩
  · exact ⟨hf, .inr (.inl h)⟩
  · exact ⟨hf, .inr (.inr ⟨hr, ho, by cases h; rfl⟩)⟩

theorem State.Ready.commonRefusal {s : State} (h : s.Ready) : s.commonRefusal = none := by
  simp [State.commonRefusal, h.config, h.live]

/-- In a ready state an operation whose own checks pass has its effect. -/
theorem operateTo_run {w : Word} {effect : Host.Outcome State Fault Refusal} {s : State} (h : s.Ready) :
    operateTo w none effect s = effect := by
  simp [operateTo, h.noFault, h.commonRefusal]

theorem operate_run {w : Word} {run s : State} (h : s.Ready) : operate w none run s = .next run := operateTo_run h

/-- In a ready state an operation whose own check fails records the outcome. -/
theorem operate_stop {w : Word} {r : Stop} {run s : State} (h : s.Ready) :
    operate w (some r) run s = .next (s.raise r (some w)) := by
  simp [operate, operateTo, h.noFault, h.commonRefusal]

@[simp] theorem State.setupCheck_eq_none (s : State) : s.setupCheck = none ↔ s.setupDone = true := by
  simp [State.setupCheck]

@[simp] theorem State.repeatCheck_eq_none (s : State) : s.repeatCheck = none ↔ s.setupDone = false := by
  simp [State.repeatCheck]

@[simp] theorem State.drawCheck_eq_none (s : State) :
    s.drawCheck = none ↔ s.setupDone = true ∧ s.atlasBuilt = true := by
  unfold State.drawCheck
  cases s.setupDone <;> cases s.atlasBuilt <;> simp

/-! ## WRITE -/

/-- WRITE changes memory alone (40_bus.md R112). -/
theorem State.writeByte_frame (s : State) (a : Addr) (v : Byte) :
    s.writeByte a v = { s with mem := (s.writeByte a v).mem } := by
  unfold State.writeByte; split <;> rfl

@[simp] theorem State.writeByte_setupDone (s : State) (a : Addr) (v : Byte) :
    (s.writeByte a v).setupDone = s.setupDone := by rw [State.writeByte_frame]
@[simp] theorem State.writeByte_rows (s : State) (a : Addr) (v : Byte) :
    (s.writeByte a v).rows = s.rows := by rw [State.writeByte_frame]
@[simp] theorem State.writeByte_atlas (s : State) (a : Addr) (v : Byte) :
    (s.writeByte a v).atlas = s.atlas := by rw [State.writeByte_frame]
@[simp] theorem State.writeByte_atlasBuilt (s : State) (a : Addr) (v : Byte) :
    (s.writeByte a v).atlasBuilt = s.atlasBuilt := by rw [State.writeByte_frame]
@[simp] theorem State.writeByte_screen (s : State) (a : Addr) (v : Byte) :
    (s.writeByte a v).screen = s.screen := by rw [State.writeByte_frame]
@[simp] theorem State.writeByte_phase (s : State) (a : Addr) (v : Byte) :
    (s.writeByte a v).phase = s.phase := by rw [State.writeByte_frame]
@[simp] theorem State.writeByte_quit (s : State) (a : Addr) (v : Byte) :
    (s.writeByte a v).quit = s.quit := by rw [State.writeByte_frame]
@[simp] theorem State.writeByte_presented (s : State) (a : Addr) (v : Byte) :
    (s.writeByte a v).presented = s.presented := by rw [State.writeByte_frame]
@[simp] theorem State.writeByte_fault (s : State) (a : Addr) (v : Byte) :
    (s.writeByte a v).fault = s.fault := by rw [State.writeByte_frame]
@[simp] theorem State.writeByte_cfg (s : State) (a : Addr) (v : Byte) :
    (s.writeByte a v).cfg = s.cfg := by rw [State.writeByte_frame]
@[simp] theorem State.writeByte_engine (s : State) (a : Addr) (v : Byte) :
    (s.writeByte a v).engine = s.engine := by rw [State.writeByte_frame]
@[simp] theorem State.writeByte_host (s : State) (a : Addr) (v : Byte) :
    (s.writeByte a v).host = s.host := by rw [State.writeByte_frame]
@[simp] theorem State.writeByte_pending (s : State) (a : Addr) (v : Byte) :
    (s.writeByte a v).pending = s.pending := by rw [State.writeByte_frame]
@[simp] theorem State.writeByte_stage (s : State) (a : Addr) (v : Byte) :
    (s.writeByte a v).stage = s.stage := by rw [State.writeByte_frame]
@[simp] theorem State.writeByte_last (s : State) (a : Addr) (v : Byte) :
    (s.writeByte a v).last = s.last := by rw [State.writeByte_frame]

theorem State.writeByte_mem (s : State) (a : Addr) (v : Byte) :
    (s.writeByte a v).mem = if inRomWindow a then s.mem else s.mem.writeByte a v := by
  unfold State.writeByte; split <;> rfl

@[simp] theorem State.portOutByte_eq (s : State) (p : Addr) (v : Byte) : s.portOutByte p v = s := rfl

/-! ## Keys -/

/-- Pressing bits changes one row alone. -/
theorem State.pressBits_frame (s : State) (r : Fin 8) (m : Byte) :
    s.pressBits r m = { s with rows := (s.pressBits r m).rows } := rfl

theorem State.row_pressBits (s : State) (r r' : Fin 8) (m : Byte) :
    (s.pressBits r m).row r' = if r = r' then s.row r &&& ~~~m else s.row r' := s.row_setRow r r' _

theorem State.row_releaseBits (s : State) (r r' : Fin 8) (m : Byte) :
    (s.releaseBits r m).row r' = if r = r' then s.row r ||| m else s.row r' := s.row_setRow r r' _

/-- KEY_DOWN changes rows alone (41_keyboard.md R143). -/
theorem State.pressKey_frame (s : State) (k : HostKey) :
    s.pressKey k = { s with rows := (s.pressKey k).rows } := by
  unfold State.pressKey; split
  · rfl
  · split <;> rfl

@[simp] theorem State.pressKey_mem (s : State) (k : HostKey) :
    (s.pressKey k).mem = s.mem := by rw [State.pressKey_frame]
@[simp] theorem State.pressKey_setupDone (s : State) (k : HostKey) :
    (s.pressKey k).setupDone = s.setupDone := by rw [State.pressKey_frame]
@[simp] theorem State.pressKey_atlas (s : State) (k : HostKey) :
    (s.pressKey k).atlas = s.atlas := by rw [State.pressKey_frame]
@[simp] theorem State.pressKey_atlasBuilt (s : State) (k : HostKey) :
    (s.pressKey k).atlasBuilt = s.atlasBuilt := by rw [State.pressKey_frame]
@[simp] theorem State.pressKey_screen (s : State) (k : HostKey) :
    (s.pressKey k).screen = s.screen := by rw [State.pressKey_frame]
@[simp] theorem State.pressKey_phase (s : State) (k : HostKey) :
    (s.pressKey k).phase = s.phase := by rw [State.pressKey_frame]
@[simp] theorem State.pressKey_quit (s : State) (k : HostKey) :
    (s.pressKey k).quit = s.quit := by rw [State.pressKey_frame]
@[simp] theorem State.pressKey_presented (s : State) (k : HostKey) :
    (s.pressKey k).presented = s.presented := by rw [State.pressKey_frame]
@[simp] theorem State.pressKey_fault (s : State) (k : HostKey) :
    (s.pressKey k).fault = s.fault := by rw [State.pressKey_frame]
@[simp] theorem State.pressKey_cfg (s : State) (k : HostKey) :
    (s.pressKey k).cfg = s.cfg := by rw [State.pressKey_frame]
@[simp] theorem State.pressKey_engine (s : State) (k : HostKey) :
    (s.pressKey k).engine = s.engine := by rw [State.pressKey_frame]
@[simp] theorem State.pressKey_host (s : State) (k : HostKey) :
    (s.pressKey k).host = s.host := by rw [State.pressKey_frame]
@[simp] theorem State.pressKey_pending (s : State) (k : HostKey) :
    (s.pressKey k).pending = s.pending := by rw [State.pressKey_frame]
@[simp] theorem State.pressKey_stage (s : State) (k : HostKey) :
    (s.pressKey k).stage = s.stage := by rw [State.pressKey_frame]
@[simp] theorem State.pressKey_last (s : State) (k : HostKey) :
    (s.pressKey k).last = s.last := by rw [State.pressKey_frame]

/-- KEY_UP changes rows alone (41_keyboard.md R144). -/
theorem State.releaseKey_frame (s : State) (k : HostKey) :
    s.releaseKey k = { s with rows := (s.releaseKey k).rows } := by
  unfold State.releaseKey; split
  · rfl
  · split <;> rfl

@[simp] theorem State.releaseKey_mem (s : State) (k : HostKey) :
    (s.releaseKey k).mem = s.mem := by rw [State.releaseKey_frame]
@[simp] theorem State.releaseKey_setupDone (s : State) (k : HostKey) :
    (s.releaseKey k).setupDone = s.setupDone := by rw [State.releaseKey_frame]
@[simp] theorem State.releaseKey_atlas (s : State) (k : HostKey) :
    (s.releaseKey k).atlas = s.atlas := by rw [State.releaseKey_frame]
@[simp] theorem State.releaseKey_atlasBuilt (s : State) (k : HostKey) :
    (s.releaseKey k).atlasBuilt = s.atlasBuilt := by rw [State.releaseKey_frame]
@[simp] theorem State.releaseKey_screen (s : State) (k : HostKey) :
    (s.releaseKey k).screen = s.screen := by rw [State.releaseKey_frame]
@[simp] theorem State.releaseKey_phase (s : State) (k : HostKey) :
    (s.releaseKey k).phase = s.phase := by rw [State.releaseKey_frame]
@[simp] theorem State.releaseKey_quit (s : State) (k : HostKey) :
    (s.releaseKey k).quit = s.quit := by rw [State.releaseKey_frame]
@[simp] theorem State.releaseKey_presented (s : State) (k : HostKey) :
    (s.releaseKey k).presented = s.presented := by rw [State.releaseKey_frame]
@[simp] theorem State.releaseKey_fault (s : State) (k : HostKey) :
    (s.releaseKey k).fault = s.fault := by rw [State.releaseKey_frame]
@[simp] theorem State.releaseKey_cfg (s : State) (k : HostKey) :
    (s.releaseKey k).cfg = s.cfg := by rw [State.releaseKey_frame]
@[simp] theorem State.releaseKey_engine (s : State) (k : HostKey) :
    (s.releaseKey k).engine = s.engine := by rw [State.releaseKey_frame]
@[simp] theorem State.releaseKey_host (s : State) (k : HostKey) :
    (s.releaseKey k).host = s.host := by rw [State.releaseKey_frame]
@[simp] theorem State.releaseKey_pending (s : State) (k : HostKey) :
    (s.releaseKey k).pending = s.pending := by rw [State.releaseKey_frame]
@[simp] theorem State.releaseKey_stage (s : State) (k : HostKey) :
    (s.releaseKey k).stage = s.stage := by rw [State.releaseKey_frame]
@[simp] theorem State.releaseKey_last (s : State) (k : HostKey) :
    (s.releaseKey k).last = s.last := by rw [State.releaseKey_frame]

/-- A mask inside bits 4..0 leaves bits 7..5 of a row alone (10_state.md R23). -/
theorem top_and_not (b m : Byte) (h : m.extractLsb' 5 3 = 0#3) : (b &&& ~~~m).extractLsb' 5 3 = b.extractLsb' 5 3 := by
  ext i hi
  have hm := congrArg (fun x : BitVec 3 => x[i]) h
  simp [BitVec.getElem_extractLsb'] at hm ⊢
  intro _
  simp [hm]
  omega

theorem top_or (b m : Byte) (h : m.extractLsb' 5 3 = 0#3) : (b ||| m).extractLsb' 5 3 = b.extractLsb' 5 3 := by
  ext i hi
  have hm := congrArg (fun x : BitVec 3 => x[i]) h
  simp [BitVec.getElem_extractLsb'] at hm ⊢
  simp [hm]

theorem scanMask_top (e : Byte) : (scanMask e).extractLsb' 5 3 = 0#3 := by
  revert e; decide +kernel

end Sys2Proof.Machine
end

