-- ==== Sys2Proof/Laws/Frame.lean ====
section
/-! SUPPORT. What the parts of REDRAW and FRAME can change (43_frame.md). -/

namespace Sys2Proof.Machine

/-! ## The slice -/

/-- An engine step changes memory and the engine's state alone (43_frame.md R192). -/
theorem engineStep_frame (k : EngineStep) : ∀ {latest : Option Byte} {s t : State}, engineStep k latest s = some t →
    t = { s with mem := t.mem, engine := { s.engine with state := t.engine.state } } := by
  induction k with
  | done n => intro _ s t h; cases h; rfl
  | hang => intro _ s t h; cases h
  | fetch a k ih => intro _ s t h; exact ih h
  | read a k ih => intro _ s t h; exact ih h
  | portIn p k ih => intro _ s t h; exact ih h
  | portOut p v k ih => intro _ s t h; exact ih h
  | write a v k ih =>
    intro _ s t h
    have ht := ih h
    rw [State.writeByte_frame] at ht
    exact ht
  | ifResult v t e iht ihe =>
    intro _ s u h
    simp only [engineStep] at h
    split at h
    · exact iht h
    · exact ihe h

/-- A slice is one engine step and then the rest of it. -/
theorem slice_succ {n : Nat} {s t : State} (h : slice (n + 1) s = some t) :
    ∃ m, engineStep s.engine.step none s = some m ∧ slice n m = some t := Option.bind_eq_some_iff.mp h

/-- A slice changes memory and the engine's state alone (43_frame.md R191). -/
theorem slice_frame : ∀ {n : Nat} {s t : State}, slice n s = some t →
    t = { s with mem := t.mem, engine := { s.engine with state := t.engine.state } }
  | 0, s, t, h => by cases h; rfl
  | n + 1, s, t, h => by
    obtain ⟨m, hm, ht⟩ := slice_succ h
    have h₁ := slice_frame ht
    rw [engineStep_frame _ hm] at h₁
    exact h₁

/-- The slice of a FRAME changes memory, the engine's state and, from Init, `phase`. -/
theorem State.sliced_frame {s u : State} (h : s.sliced = some u) :
    u = { s with mem := u.mem, phase := s.started.phase, engine := { s.engine with state := u.engine.state } } := by
  have hu := slice_frame h
  have hs : s.started = { s with phase := s.started.phase } := by unfold State.started; split <;> rfl
  rw [hs] at hu
  exact hu

theorem State.sliced_setupDone {s u : State} (h : s.sliced = some u) : u.setupDone = s.setupDone := by
  rw [State.sliced_frame h]
theorem State.sliced_rows {s u : State} (h : s.sliced = some u) : u.rows = s.rows := by
  rw [State.sliced_frame h]
theorem State.sliced_atlas {s u : State} (h : s.sliced = some u) : u.atlas = s.atlas := by
  rw [State.sliced_frame h]
theorem State.sliced_atlasBuilt {s u : State} (h : s.sliced = some u) : u.atlasBuilt = s.atlasBuilt := by
  rw [State.sliced_frame h]
theorem State.sliced_screen {s u : State} (h : s.sliced = some u) : u.screen = s.screen := by
  rw [State.sliced_frame h]
theorem State.sliced_quit {s u : State} (h : s.sliced = some u) : u.quit = s.quit := by
  rw [State.sliced_frame h]
theorem State.sliced_presented {s u : State} (h : s.sliced = some u) : u.presented = s.presented := by
  rw [State.sliced_frame h]
theorem State.sliced_fault {s u : State} (h : s.sliced = some u) : u.fault = s.fault := by
  rw [State.sliced_frame h]
theorem State.sliced_cfg {s u : State} (h : s.sliced = some u) : u.cfg = s.cfg := by
  rw [State.sliced_frame h]
theorem State.sliced_host {s u : State} (h : s.sliced = some u) : u.host = s.host := by
  rw [State.sliced_frame h]
theorem State.sliced_pending {s u : State} (h : s.sliced = some u) : u.pending = s.pending := by
  rw [State.sliced_frame h]
theorem State.sliced_stage {s u : State} (h : s.sliced = some u) : u.stage = s.stage := by
  rw [State.sliced_frame h]
theorem State.sliced_last {s u : State} (h : s.sliced = some u) : u.last = s.last := by
  rw [State.sliced_frame h]
theorem State.sliced_phase {s u : State} (h : s.sliced = some u) : u.phase = s.started.phase := by
  rw [State.sliced_frame h]

/-- The memory an engine step leaves keeps whatever every WRITE keeps. -/
theorem engineStep_mem_induction {P : Memory → Prop}
    (hw : ∀ (s : State) (a : Addr) (v : Byte), P s.mem → P (s.writeByte a v).mem) (k : EngineStep) :
    ∀ {latest : Option Byte} {s t : State}, engineStep k latest s = some t → P s.mem → P t.mem := by
  induction k with
  | done n => intro _ _ _ h hs; cases h; exact hs
  | hang => intro _ _ _ h; cases h
  | fetch a k ih => intro _ _ _ h hs; exact ih h hs
  | read a k ih => intro _ _ _ h hs; exact ih h hs
  | portIn p k ih => intro _ _ _ h hs; exact ih h hs
  | portOut p v k ih => intro _ _ _ h hs; exact ih h hs
  | write a v k ih => intro _ s _ h hs; exact ih h (hw s a v hs)
  | ifResult v t e iht ihe =>
    intro _ _ _ h hs
    simp only [engineStep] at h
    split at h
    · exact iht h hs
    · exact ihe h hs

theorem slice_mem_induction {P : Memory → Prop}
    (hw : ∀ (s : State) (a : Addr) (v : Byte), P s.mem → P (s.writeByte a v).mem) :
    ∀ {n : Nat} {s t : State}, slice n s = some t → P s.mem → P t.mem
  | 0, _, _, h, hs => by cases h; exact hs
  | n + 1, _, _, h, hs => by
    obtain ⟨m, hm, ht⟩ := slice_succ h
    exact slice_mem_induction hw ht (engineStep_mem_induction hw _ hm hs)

/-! ## The drain -/

/-- The drain changes rows and `quit` alone (43_frame.md R193 to R196). -/
theorem drainEvents_frame : ∀ (es : List HostEvent) (s : State),
    drainEvents es s = { s with rows := (drainEvents es s).rows, quit := (drainEvents es s).quit }
  | [], _ => rfl
  | .keyDown k :: es, s => by
    simp only [drainEvents]
    rw [drainEvents_frame es (s.pressKey k)]
    simp
  | .keyUp k :: es, s => by
    simp only [drainEvents]
    rw [drainEvents_frame es (s.releaseKey k)]
    simp
  | .quit :: _, _ => rfl
  | .other _ :: es, s => drainEvents_frame es s

@[simp] theorem drainEvents_mem (es : List HostEvent) (s : State) :
    (drainEvents es s).mem = s.mem := by rw [drainEvents_frame]
@[simp] theorem drainEvents_setupDone (es : List HostEvent) (s : State) :
    (drainEvents es s).setupDone = s.setupDone := by rw [drainEvents_frame]
@[simp] theorem drainEvents_atlas (es : List HostEvent) (s : State) :
    (drainEvents es s).atlas = s.atlas := by rw [drainEvents_frame]
@[simp] theorem drainEvents_atlasBuilt (es : List HostEvent) (s : State) :
    (drainEvents es s).atlasBuilt = s.atlasBuilt := by rw [drainEvents_frame]
@[simp] theorem drainEvents_screen (es : List HostEvent) (s : State) :
    (drainEvents es s).screen = s.screen := by rw [drainEvents_frame]
@[simp] theorem drainEvents_phase (es : List HostEvent) (s : State) :
    (drainEvents es s).phase = s.phase := by rw [drainEvents_frame]
@[simp] theorem drainEvents_presented (es : List HostEvent) (s : State) :
    (drainEvents es s).presented = s.presented := by rw [drainEvents_frame]
@[simp] theorem drainEvents_fault (es : List HostEvent) (s : State) :
    (drainEvents es s).fault = s.fault := by rw [drainEvents_frame]
@[simp] theorem drainEvents_cfg (es : List HostEvent) (s : State) :
    (drainEvents es s).cfg = s.cfg := by rw [drainEvents_frame]
@[simp] theorem drainEvents_engine (es : List HostEvent) (s : State) :
    (drainEvents es s).engine = s.engine := by rw [drainEvents_frame]
@[simp] theorem drainEvents_host (es : List HostEvent) (s : State) :
    (drainEvents es s).host = s.host := by rw [drainEvents_frame]
@[simp] theorem drainEvents_pending (es : List HostEvent) (s : State) :
    (drainEvents es s).pending = s.pending := by rw [drainEvents_frame]
@[simp] theorem drainEvents_stage (es : List HostEvent) (s : State) :
    (drainEvents es s).stage = s.stage := by rw [drainEvents_frame]
@[simp] theorem drainEvents_last (es : List HostEvent) (s : State) :
    (drainEvents es s).last = s.last := by rw [drainEvents_frame]

/-- A drain never clears `quit` (10_state.md R30), and sets it exactly when a quit event is among its events. -/
theorem drainEvents_quit : ∀ (es : List HostEvent) (s : State),
    (drainEvents es s).quit = (s.quit || es.contains .quit)
  | [], s => by simp [drainEvents]
  | .keyDown k :: es, s => by
    simp only [drainEvents, drainEvents_quit es (s.pressKey k)]
    simp
  | .keyUp k :: es, s => by
    simp only [drainEvents, drainEvents_quit es (s.releaseKey k)]
    simp
  | .quit :: es, s => by simp [drainEvents]
  | .other c :: es, s => by
    simp only [drainEvents, drainEvents_quit es s]
    simp

@[simp] theorem State.drained_mem (s : State) :
    (s.drained).mem = s.mem := by simp [State.drained]
@[simp] theorem State.drained_setupDone (s : State) :
    (s.drained).setupDone = s.setupDone := by simp [State.drained]
@[simp] theorem State.drained_atlas (s : State) :
    (s.drained).atlas = s.atlas := by simp [State.drained]
@[simp] theorem State.drained_atlasBuilt (s : State) :
    (s.drained).atlasBuilt = s.atlasBuilt := by simp [State.drained]
@[simp] theorem State.drained_screen (s : State) :
    (s.drained).screen = s.screen := by simp [State.drained]
@[simp] theorem State.drained_phase (s : State) :
    (s.drained).phase = s.phase := by simp [State.drained]
@[simp] theorem State.drained_presented (s : State) :
    (s.drained).presented = s.presented := by simp [State.drained]
@[simp] theorem State.drained_fault (s : State) :
    (s.drained).fault = s.fault := by simp [State.drained]
@[simp] theorem State.drained_cfg (s : State) :
    (s.drained).cfg = s.cfg := by simp [State.drained]
@[simp] theorem State.drained_engine (s : State) :
    (s.drained).engine = s.engine := by simp [State.drained]
@[simp] theorem State.drained_pending (s : State) :
    (s.drained).pending = s.pending := by simp [State.drained]
@[simp] theorem State.drained_stage (s : State) :
    (s.drained).stage = s.stage := by simp [State.drained]
@[simp] theorem State.drained_last (s : State) :
    (s.drained).last = s.last := by simp [State.drained]

theorem State.drained_quit (s : State) : s.drained.quit = (s.quit || s.nextDrain.contains .quit) :=
  drainEvents_quit s.nextDrain _

/-- What every KEY_DOWN and KEY_UP keeps of a state's rows, a drain keeps. -/
theorem drainEvents_induction {P : State → Prop} (hd : ∀ s k, P s → P (s.pressKey k))
    (hu : ∀ s k, P s → P (s.releaseKey k)) (hq : ∀ s : State, P s → P { s with quit := true }) :
    ∀ (es : List HostEvent) (s : State), P s → P (drainEvents es s)
  | [], _, h => h
  | .keyDown k :: es, s, h => drainEvents_induction hd hu hq es _ (hd s k h)
  | .keyUp k :: es, s, h => drainEvents_induction hd hu hq es _ (hu s k h)
  | .quit :: _, s, h => hq s h
  | .other _ :: es, s, h => drainEvents_induction hd hu hq es s h

/-! ## Redraw and frame -/

@[simp] theorem State.redrawn_mem (s : State) :
    (s.redrawn).mem = s.mem := by simp [State.redrawn]
@[simp] theorem State.redrawn_setupDone (s : State) :
    (s.redrawn).setupDone = s.setupDone := by simp [State.redrawn]
@[simp] theorem State.redrawn_rows (s : State) :
    (s.redrawn).rows = s.rows := by simp [State.redrawn]
@[simp] theorem State.redrawn_atlas (s : State) :
    (s.redrawn).atlas = s.atlas := by simp [State.redrawn]
@[simp] theorem State.redrawn_atlasBuilt (s : State) :
    (s.redrawn).atlasBuilt = s.atlasBuilt := by simp [State.redrawn]
@[simp] theorem State.redrawn_phase (s : State) :
    (s.redrawn).phase = s.phase := by simp [State.redrawn]
@[simp] theorem State.redrawn_quit (s : State) :
    (s.redrawn).quit = s.quit := by simp [State.redrawn]
@[simp] theorem State.redrawn_fault (s : State) :
    (s.redrawn).fault = s.fault := by simp [State.redrawn]
@[simp] theorem State.redrawn_cfg (s : State) :
    (s.redrawn).cfg = s.cfg := by simp [State.redrawn]
@[simp] theorem State.redrawn_engine (s : State) :
    (s.redrawn).engine = s.engine := by simp [State.redrawn]
@[simp] theorem State.redrawn_host (s : State) :
    (s.redrawn).host = s.host := by simp [State.redrawn]
@[simp] theorem State.redrawn_pending (s : State) :
    (s.redrawn).pending = s.pending := by simp [State.redrawn]
@[simp] theorem State.redrawn_stage (s : State) :
    (s.redrawn).stage = s.stage := by simp [State.redrawn]
@[simp] theorem State.redrawn_last (s : State) :
    (s.redrawn).last = s.last := by simp [State.redrawn]

@[simp] theorem State.redrawn_screen (s : State) :
    s.redrawn.screen = walk s.cfg s.mem s.atlas s.displayPointer s.screen := by simp [State.redrawn]

@[simp] theorem State.redrawn_presented (s : State) :
    s.redrawn.presented = s.presented ++ [s.redrawn.screen] := by simp [State.redrawn]

/-- Each cell of the walked screen is its old cell blitted with its code (43_frame.md R200, R201). -/
theorem walk_cell (cfg : Config) (mem : Memory) (atlas : Atlas) (p : Addr) (sc : Screen) (row col : Nat)
    (hr : row < 24) (hc : col < 32) :
    (walk cfg mem atlas p sc).cell row col =
      blitCell cfg.highCodePolicy atlas (displayCode mem (p + cfg.rowBaseOffset) row col) (sc.cell row col) := by
  have hn : 32 * row + col < 768 := by omega
  have hd : (32 * row + col) / 32 = row := by omega
  have hm : (32 * row + col) % 32 = col := by omega
  rw [Screen.cell, walk]
  simp [hn, hd, hm]

/-- A replaced cell reads as what replaced it, and the other cells as before. -/
theorem Screen.cell_setCell (sc : Screen) (row col row' col' : Nat) (c : ScreenCell) (hr : row < 24) (hc : col < 32)
    (hc' : col' < 32) :
    (sc.setCell row col c).cell row' col' = if row = row' ∧ col = col' then c else sc.cell row' col' := by
  unfold Screen.cell Screen.setCell
  rw [Vector.getElem?_setIfInBounds]
  by_cases h : 32 * row + col = 32 * row' + col'
  · have : row = row' ∧ col = col' := by omega
    have hn : 32 * row' + col' < 768 := by omega
    simp [this, hn]
  · have : ¬ (row = row' ∧ col = col') := by omega
    simp [h, this]

@[simp] theorem State.started_mem (s : State) :
    (s.started).mem = s.mem := by unfold State.started; split <;> rfl
@[simp] theorem State.started_setupDone (s : State) :
    (s.started).setupDone = s.setupDone := by unfold State.started; split <;> rfl
@[simp] theorem State.started_rows (s : State) :
    (s.started).rows = s.rows := by unfold State.started; split <;> rfl
@[simp] theorem State.started_atlas (s : State) :
    (s.started).atlas = s.atlas := by unfold State.started; split <;> rfl
@[simp] theorem State.started_atlasBuilt (s : State) :
    (s.started).atlasBuilt = s.atlasBuilt := by unfold State.started; split <;> rfl
@[simp] theorem State.started_screen (s : State) :
    (s.started).screen = s.screen := by unfold State.started; split <;> rfl
@[simp] theorem State.started_quit (s : State) :
    (s.started).quit = s.quit := by unfold State.started; split <;> rfl
@[simp] theorem State.started_presented (s : State) :
    (s.started).presented = s.presented := by unfold State.started; split <;> rfl
@[simp] theorem State.started_fault (s : State) :
    (s.started).fault = s.fault := by unfold State.started; split <;> rfl
@[simp] theorem State.started_cfg (s : State) :
    (s.started).cfg = s.cfg := by unfold State.started; split <;> rfl
@[simp] theorem State.started_engine (s : State) :
    (s.started).engine = s.engine := by unfold State.started; split <;> rfl
@[simp] theorem State.started_host (s : State) :
    (s.started).host = s.host := by unfold State.started; split <;> rfl
@[simp] theorem State.started_pending (s : State) :
    (s.started).pending = s.pending := by unfold State.started; split <;> rfl
@[simp] theorem State.started_stage (s : State) :
    (s.started).stage = s.stage := by unfold State.started; split <;> rfl
@[simp] theorem State.started_last (s : State) :
    (s.started).last = s.last := by unfold State.started; split <;> rfl
@[simp] theorem State.frameEnd_mem (s : State) :
    (s.frameEnd).mem = s.mem := by unfold State.frameEnd; split <;> simp
@[simp] theorem State.frameEnd_setupDone (s : State) :
    (s.frameEnd).setupDone = s.setupDone := by unfold State.frameEnd; split <;> simp
@[simp] theorem State.frameEnd_rows (s : State) :
    (s.frameEnd).rows = s.rows := by unfold State.frameEnd; split <;> simp
@[simp] theorem State.frameEnd_atlas (s : State) :
    (s.frameEnd).atlas = s.atlas := by unfold State.frameEnd; split <;> simp
@[simp] theorem State.frameEnd_atlasBuilt (s : State) :
    (s.frameEnd).atlasBuilt = s.atlasBuilt := by unfold State.frameEnd; split <;> simp
@[simp] theorem State.frameEnd_quit (s : State) :
    (s.frameEnd).quit = s.quit := by unfold State.frameEnd; split <;> simp
@[simp] theorem State.frameEnd_fault (s : State) :
    (s.frameEnd).fault = s.fault := by unfold State.frameEnd; split <;> simp
@[simp] theorem State.frameEnd_cfg (s : State) :
    (s.frameEnd).cfg = s.cfg := by unfold State.frameEnd; split <;> simp
@[simp] theorem State.frameEnd_engine (s : State) :
    (s.frameEnd).engine = s.engine := by unfold State.frameEnd; split <;> simp
@[simp] theorem State.frameEnd_host (s : State) :
    (s.frameEnd).host = s.host := by unfold State.frameEnd; split <;> simp
@[simp] theorem State.frameEnd_pending (s : State) :
    (s.frameEnd).pending = s.pending := by unfold State.frameEnd; split <;> simp
@[simp] theorem State.frameEnd_stage (s : State) :
    (s.frameEnd).stage = s.stage := by unfold State.frameEnd; split <;> simp
@[simp] theorem State.frameEnd_last (s : State) :
    (s.frameEnd).last = s.last := by unfold State.frameEnd; split <;> simp
@[simp] theorem State.framed_setupDone (s : State) :
    (s.framed).setupDone = s.setupDone := by simp [State.framed]
@[simp] theorem State.framed_atlas (s : State) :
    (s.framed).atlas = s.atlas := by simp [State.framed]
@[simp] theorem State.framed_atlasBuilt (s : State) :
    (s.framed).atlasBuilt = s.atlasBuilt := by simp [State.framed]
@[simp] theorem State.framed_fault (s : State) :
    (s.framed).fault = s.fault := by simp [State.framed]
@[simp] theorem State.framed_cfg (s : State) :
    (s.framed).cfg = s.cfg := by simp [State.framed]
@[simp] theorem State.framed_pending (s : State) :
    (s.framed).pending = s.pending := by simp [State.framed]
@[simp] theorem State.framed_stage (s : State) :
    (s.framed).stage = s.stage := by simp [State.framed]
@[simp] theorem State.framed_last (s : State) :
    (s.framed).last = s.last := by simp [State.framed]

/-! ## The reported outcome is read by nothing (log 9) -/

theorem State.writeByte_last_only (u : State) (a : Addr) (v : Byte) (x : Report) :
    State.writeByte { u with last := x } a v = { u.writeByte a v with last := x } := by
  unfold State.writeByte; split <;> rfl

theorem State.pressKey_last_only (u : State) (k : HostKey) (x : Report) :
    State.pressKey { u with last := x } k = { u.pressKey k with last := x } := by
  simp only [State.pressKey]
  split
  · rfl
  · split <;> rfl

theorem State.releaseKey_last_only (u : State) (k : HostKey) (x : Report) :
    State.releaseKey { u with last := x } k = { u.releaseKey k with last := x } := by
  simp only [State.releaseKey]
  split
  · rfl
  · split <;> rfl

theorem engineStep_last_only (k : EngineStep) : ∀ (latest : Option Byte) (u : State) (x : Report),
    engineStep k latest { u with last := x } = (engineStep k latest u).map fun t => { t with last := x } := by
  induction k with
  | done n => intros; rfl
  | hang => intros; rfl
  | fetch a k ih => intro _ u x; exact ih _ _ _
  | read a k ih => intro _ u x; exact ih _ _ _
  | write a v k ih => intro _ u x; simp only [engineStep]; rw [State.writeByte_last_only, ih]
  | portIn p k ih => intro _ u x; exact ih _ _ _
  | portOut p v k ih => intro _ u x; exact ih _ _ _
  | ifResult v t e iht ihe =>
    intro _ u x
    simp only [engineStep]
    split
    · exact iht _ _ _
    · exact ihe _ _ _

theorem slice_last_only (n : Nat) : ∀ (u : State) (x : Report),
    slice n { u with last := x } = (slice n u).map fun t => { t with last := x } := by
  induction n with
  | zero => intros; rfl
  | succ n ih =>
    intro u x
    simp only [slice, engineStep_last_only]
    cases engineStep u.engine.step none u with
    | none => rfl
    | some t => exact ih t x

theorem drainEvents_last_only (es : List HostEvent) : ∀ (u : State) (x : Report),
    drainEvents es { u with last := x } = { drainEvents es u with last := x } := by
  induction es with
  | nil => intros; rfl
  | cons e es ih =>
    intro u x
    cases e <;> simp only [drainEvents]
    · rw [State.pressKey_last_only, ih]
    · rw [State.releaseKey_last_only, ih]
    · rw [ih]

end Sys2Proof.Machine
end

