-- ==== Sys2Proof/Laws/Exec.lean ====
section
/-! SUPPORT. What each operation answers in a state in which it runs, the address windows as bounds, and what a byte reads
as after a WRITE. -/

namespace Sys2Proof.Machine

/-! ## The checks pass -/

theorem State.BusReady.setupCheck {s : State} (h : s.BusReady) : s.setupCheck = none := by simp [h.memorySet]

theorem State.DrawReady.drawCheck {s : State} (h : s.DrawReady) : s.drawCheck = none := by
  simp [h.memorySet, h.atlasSet]

/-! ## What each operation answers -/

theorem exec_fetch {s : State} (h : s.BusReady) (a : Addr) : exec (.fetch a) s = .next (s.answer (s.fetchByte a)) := by
  simp [exec, execFetch, h.setupCheck, operate_run h.toReady]

theorem exec_read {s : State} (h : s.BusReady) (a : Addr) : exec (.read a) s = .next (s.answer (s.readByte a)) := by
  simp [exec, execRead, h.setupCheck, operate_run h.toReady]

theorem exec_write {s : State} (h : s.BusReady) (a : Addr) (v : Byte) :
    exec (.write a v) s = .next (s.writeByte a v).done := by
  simp [exec, execWrite, h.setupCheck, operate_run h.toReady]

theorem exec_portIn {s : State} (h : s.Ready) (p : Addr) : exec (.portIn p) s = .next (s.answer (s.portInByte p)) := by
  simp [exec, execPortIn, operate_run h]

theorem exec_portOut {s : State} (h : s.Ready) (p : Addr) (v : Byte) : exec (.portOut p v) s = .next s.done := by
  simp [exec, execPortOut, operate_run h]

theorem exec_keyDown {s : State} (h : s.Ready) (k : HostKey) : exec (.keyDown k) s = .next (s.pressKey k).done := by
  simp [exec, execKeyDown, operate_run h]

theorem exec_keyUp {s : State} (h : s.Ready) (k : HostKey) : exec (.keyUp k) s = .next (s.releaseKey k).done := by
  simp [exec, execKeyUp, operate_run h]

theorem exec_kbReset {s : State} (h : s.Ready) : exec .kbReset s = .next s.releaseAll.done := by
  simp [exec, execKbReset, operate_run h]

theorem exec_setup {s : State} (h : s.Ready) (hs : s.setupDone = false) :
    exec .setup s = .next { s.done with mem := setupMemory s.cfg, setupDone := true } := by
  simp [exec, execSetup, State.repeatCheck, hs, operate_run h]

theorem exec_atlasBuild {s : State} (h : s.Ready) :
    exec .atlasBuild s = .next { s.done with atlas := buildAtlas s.cfg, atlasBuilt := true } := by
  simp [exec, execAtlasBuild, operate_run h]

theorem exec_redraw {s : State} (h : s.DrawReady) : exec .redraw s = .next s.redrawn.done := by
  simp only [exec, execRedraw, h.drawCheck, operate_run h.toReady]

theorem exec_frame {s u : State} (h : s.DrawReady) (hu : s.sliced = some u) : exec .frame s = .next u.framed.done := by
  simp only [exec, execFrame, h.drawCheck, operateTo_run h.toReady, State.frameEffect, hu]

/-- A FRAME whose slice holds a step that never ends is stuck (43_frame.md R192). -/
theorem exec_frame_hang {s : State} (h : s.DrawReady) (hu : s.sliced = none) : exec .frame s = .fault .engineHang := by
  simp only [exec, execFrame, h.drawCheck, operateTo_run h.toReady, State.frameEffect, hu]

/-! ## Windows -/

theorem inRomWindow_iff (a : Addr) : inRomWindow a = true ↔ a.toNat < 0x4000 := by
  simp [inRomWindow, Config.ramBoundary, BitVec.lt_def]

theorem inFloatWindow_eq (a : Addr) : inFloatWindow a = a.getLsbD 15 := by
  have h := BitVec.msb_eq_decide a
  have hm : a.msb = a.getLsbD 15 := by simp [BitVec.msb, BitVec.getMsbD]
  rw [← hm, h]
  simp [inFloatWindow, Config.floatBase, BitVec.le_def]

theorem State.fetchByte_low (s : State) (a : Addr) (h : a.getLsbD 15 = false) : s.fetchByte a = s.mem.readByte a := by
  rw [State.fetchByte, if_neg (by rw [inFloatWindow_eq, h]; simp)]

theorem State.fetchByte_high (s : State) (a : Addr) (h : a.getLsbD 15 = true) :
    s.fetchByte a = floatFilter (s.mem.readByte (a &&& Config.floatMask)) := by
  rw [State.fetchByte, if_pos (by rw [inFloatWindow_eq, h])]

/-- Every byte after a WRITE (40_bus.md R112). -/
theorem State.readByte_writeByte (s : State) (a b : Addr) (v : Byte) :
    (s.writeByte a v).mem.readByte b = if b = a ∧ 0x4000 ≤ a.toNat then v else s.mem.readByte b := by
  rw [State.writeByte_mem]
  by_cases h : inRomWindow a = true
  · have := (inRomWindow_iff a).mp h
    have hn : ¬ (b = a ∧ 0x4000 ≤ a.toNat) := by omega
    rw [if_pos h, if_neg hn]
  · have : 0x4000 ≤ a.toNat := Nat.le_of_not_lt fun hlt => h ((inRomWindow_iff a).mpr hlt)
    simp [h, Memory.readByte_writeByte, this]

end Sys2Proof.Machine
end

