-- ==== Sys2Proof/Laws/PerInstr.lean ====
section
/-! SUPPORT. Facts about each operation as syntax, one lemma per constructor. -/

namespace Sys2Proof.Laws

/-- `mask` of the operation's row of spec/opcode_table.json. -/
def tableMask : Instr → Word
  | .fetch _ => 0xFF0000FF#32
  | .read _ => 0xFF0000FF#32
  | .write _ _ => 0xFF000000#32
  | .portIn _ => 0xFF0000FF#32
  | .portOut _ _ => 0xFF000000#32
  | .keyDown _ => 0xFF0000FF#32
  | .keyUp _ => 0xFF0000FF#32
  | .kbReset => 0xFFFFFFFF#32
  | .setup => 0xFFFFFFFF#32
  | .atlasBuild => 0xFFFFFFFF#32
  | .redraw => 0xFFFFFFFF#32
  | .frame => 0xFFFFFFFF#32

/-- `match` of the operation's row of spec/opcode_table.json. -/
def tableMatch : Instr → Word
  | .fetch _ => 0x00000000#32
  | .read _ => 0x10000000#32
  | .write _ _ => 0x20000000#32
  | .portIn _ => 0x30000000#32
  | .portOut _ _ => 0x40000000#32
  | .keyDown _ => 0x50000000#32
  | .keyUp _ => 0x60000000#32
  | .kbReset => 0x70000000#32
  | .setup => 0x80000000#32
  | .atlasBuild => 0x90000000#32
  | .redraw => 0xA0000000#32
  | .frame => 0xB0000000#32

/-! ## The fields of an encoded word -/

/-- Each bit of an encoded word (30_encoding.md R80). -/
theorem getLsbD_wordOf (op : BitVec 4) (a : BitVec 16) (d : BitVec 8) (i : Nat) :
    (wordOf op a d).getLsbD i =
      if i < 8 then d.getLsbD i else if i < 24 then a.getLsbD (i - 8)
      else if i < 28 then false else op.getLsbD (i - 28) := by
  show BitVec.getLsbD (w := 4 + 4 + 16 + 8) (op ++ 0#4 ++ a ++ d) i = _
  rw [BitVec.getLsbD_append, BitVec.getLsbD_append, BitVec.getLsbD_append]
  by_cases h₁ : i < 8
  · simp [h₁]
  · by_cases h₂ : i < 24
    · have : i - 8 < 16 := by omega
      simp [h₁, h₂, this]
    · have : ¬ i - 8 < 16 := by omega
      by_cases h₃ : i < 28
      · have : i - 8 - 16 < 4 := by omega
        simp [*]
      · have : ¬ i - 8 - 16 < 4 := by omega
        have : i - 8 - 16 - 4 = i - 28 := by omega
        simp [*]

@[simp] theorem opField_wordOf (op : BitVec 4) (a : BitVec 16) (d : BitVec 8) : opField (wordOf op a d) = op := by
  ext i hi
  rw [opField, BitVec.getElem_extractLsb', getLsbD_wordOf]
  interval_cases i <;> rfl

@[simp] theorem rsvField_wordOf (op : BitVec 4) (a : BitVec 16) (d : BitVec 8) : rsvField (wordOf op a d) = 0#4 := by
  ext i hi
  rw [rsvField, BitVec.getElem_extractLsb', getLsbD_wordOf]
  interval_cases i <;> simp

@[simp] theorem aField_wordOf (op : BitVec 4) (a : BitVec 16) (d : BitVec 8) : aField (wordOf op a d) = a := by
  ext i hi
  rw [aField, BitVec.getElem_extractLsb', getLsbD_wordOf]
  interval_cases i <;> rfl

@[simp] theorem dField_wordOf (op : BitVec 4) (a : BitVec 16) (d : BitVec 8) : dField (wordOf op a d) = d := by
  ext i hi
  rw [dField, BitVec.getElem_extractLsb', getLsbD_wordOf]
  interval_cases i <;> rfl

/-- Masking RSV, OP and D keeps all of a word but A. -/
theorem wordOf_and_opD (op : BitVec 4) (a : BitVec 16) (d : BitVec 8) :
    wordOf op a d &&& 0xFF0000FF#32 = wordOf op 0#16 d := by
  apply BitVec.eq_of_getLsbD_eq
  intro i hi
  rw [BitVec.getLsbD_and, getLsbD_wordOf, getLsbD_wordOf]
  interval_cases i <;> simp

/-- Masking RSV and OP keeps OP alone. -/
theorem wordOf_and_op (op : BitVec 4) (a : BitVec 16) (d : BitVec 8) :
    wordOf op a d &&& 0xFF000000#32 = wordOf op 0#16 0#8 := by
  apply BitVec.eq_of_getLsbD_eq
  intro i hi
  rw [BitVec.getLsbD_and, getLsbD_wordOf, getLsbD_wordOf]
  interval_cases i <;> simp

/-- The encoded word meets the row's mask and match. -/
def TableRow.Statement (i : Instr) : Prop := encode i &&& tableMask i = tableMatch i

theorem TableRow.fetch (a : Addr) : TableRow.Statement (.fetch a) := (wordOf_and_opD _ _ _).trans rfl
theorem TableRow.read (a : Addr) : TableRow.Statement (.read a) := (wordOf_and_opD _ _ _).trans rfl
theorem TableRow.write (a : Addr) (v : Byte) : TableRow.Statement (.write a v) := (wordOf_and_op _ _ _).trans rfl
theorem TableRow.portIn (p : Addr) : TableRow.Statement (.portIn p) := (wordOf_and_opD _ _ _).trans rfl
theorem TableRow.portOut (p : Addr) (v : Byte) : TableRow.Statement (.portOut p v) := (wordOf_and_op _ _ _).trans rfl
theorem TableRow.keyDown (k : HostKey) : TableRow.Statement (.keyDown k) := (wordOf_and_opD _ _ _).trans rfl
theorem TableRow.keyUp (k : HostKey) : TableRow.Statement (.keyUp k) := (wordOf_and_opD _ _ _).trans rfl
theorem TableRow.kbReset : TableRow.Statement .kbReset := rfl
theorem TableRow.setup : TableRow.Statement .setup := rfl
theorem TableRow.atlasBuild : TableRow.Statement .atlasBuild := rfl
theorem TableRow.redraw : TableRow.Statement .redraw := rfl
theorem TableRow.frame : TableRow.Statement .frame := rfl

end Sys2Proof.Laws
end

