-- ==== Sys2Proof/Tests/Slice0.lean ====
section
/-! SUPPORT. Tests on fixed values, and for every statement with hypotheses a state that meets them. Expected values are
those of spec/95_test_vectors.md, cited by number, or worked by hand from the rule named. -/

namespace Sys2Proof.Tests
open Sys2Proof.Machine

/-! ## The test configuration and its states (95_test_vectors.md section 2) -/

/-- The configuration TC. -/
def tc : Config where
  romImage := { size := 0x2000, bytes := [(0x0000#16, 0xD3#8), (0x0001#16, 0x3E#8), (0x0100#16, 0x55#8),
    (0x1E08#16, 0xA0#8), (0x1E10#16, 0xFF#8), (0x1E17#16, 0x81#8)] }
  romPatch := [(0x0200#16, 0xC9#8), (0x0201#16, 0xC9#8)]
  dfilePtrAddr := 0x400C#16
  charsetBase := 0x1E00#16
  stepsPerFrame := 0
  highCodePolicy := .mask7
  rowBaseOffset := 0x0000#16
  keymap := [(0x0061#16, 0x62#8), (0x0062#16, 0x21#8), (0x0001#16, 0x01#8), (0x0004#16, 0x04#8)]
  deleteKey := 0x0008#16
  rowReset := 0xFF#8
  noRowValue := 0xFF#8
  otherPortValue := 0xFF#8

/-- Power-on under TC. -/
def on : State := State.powerOn tc EngineAgent.idle HostAgent.quiet

/-- "After BOOT" under TC: SETUP, KB_RESET, ATLAS_BUILD. -/
def ready : State :=
  { on with mem := setupMemory tc, setupDone := true, atlas := buildAtlas tc, atlasBuilt := true, stage := .loop }

/-- `ready` with these bytes stored. -/
def readyWith (cells : List (Addr × Byte)) : State :=
  cells.foldl (fun s c => s.writeByte c.1 c.2) ready

/-- A host whose next drain has these events, and whose later drains have none. -/
def sends (events : List HostEvent) : HostAgent :=
  { HostAgent.quiet with state := 1, drains := (1, { events := events, next := 0 }) :: HostAgent.quiet.drains }

/-- `ready` with a display file at 0x5000 and the events of the next drain. -/
def drawing (events : List HostEvent) : State :=
  { readyWith [(0x400D#16, 0x50#8)] with host := sends events }

/-- `s` with one engine step to a FRAME, and an engine that takes this step in state 0. -/
def stepping (k : EngineStep) (s : State) : State :=
  { s with cfg := { s.cfg with stepsPerFrame := 1 }, engine := { state := 0, steps := [(0, k)] } }

/-- The state one operation leaves. -/
def after (i : Instr) (s : State) : State :=
  match exec i s with
  | .next t => t
  | _ => s

/-- The state one transaction word leaves. -/
def afterWord (w : Word) (s : State) : State :=
  match step (s.withFetchWord 32 w.toNat) with
  | .next t => t
  | _ => s

/-! ## Decoding: the words of 30_encoding.md R80 to R83, written out as OP << 28 | A << 8 | D -/

theorem test_decode_fetch : decode 0x00AAAA00#32 = .ok (.fetch 0xAAAA#16) := by decide
theorem test_decode_read : decode 0x10AAAA00#32 = .ok (.read 0xAAAA#16) := by decide
theorem test_decode_write : decode 0x203FFF12#32 = .ok (.write 0x3FFF#16 0x12#8) := by decide
theorem test_decode_portIn : decode 0x30F7FE00#32 = .ok (.portIn 0xF7FE#16) := by decide
theorem test_decode_portOut : decode 0x4000FD80#32 = .ok (.portOut 0x00FD#16 0x80#8) := by decide
theorem test_decode_keyDown : decode 0x50123400#32 = .ok (.keyDown 0x1234#16) := by decide
theorem test_decode_keyUp : decode 0x60123400#32 = .ok (.keyUp 0x1234#16) := by decide
theorem test_decode_kbReset : decode 0x70000000#32 = .ok .kbReset := by decide
theorem test_decode_setup : decode 0x80000000#32 = .ok .setup := by decide
theorem test_decode_atlasBuild : decode 0x90000000#32 = .ok .atlasBuild := by decide
theorem test_decode_redraw : decode 0xA0000000#32 = .ok .redraw := by decide
theorem test_decode_frame : decode 0xB0000000#32 = .ok .frame := by decide

/-- V100, V101: a reserved OP, before RSV. -/
theorem test_decode_reservedOp :
    decode 0xC0000000#32 = .error .reservedOp ∧ decode 0xF1234567#32 = .error .reservedOp := by decide
/-- V102 to V105: RSV, an unused D, an unused A. -/
theorem test_decode_reservedBits :
    decode 0x81000000#32 = .error .reservedBits ∧ decode 0x10400001#32 = .error .reservedBits ∧
    decode 0x70000100#32 = .error .reservedBits ∧ decode 0x50006101#32 = .error .reservedBits := by decide

/-! ## What is refused before anything runs -/

/-- R95: a literal that does not fit its field, and a literal too many, are assembly errors. -/
theorem test_wf_illFormed_line :
    ({ mnemonic := .write, operands := [0x4000, 0x100] } : AsmLine).wf = false ∧
    ({ mnemonic := .fetch, operands := [0x10000] } : AsmLine).wf = false ∧
    ({ mnemonic := .setup, operands := [0] } : AsmLine).wf = false ∧
    ({ mnemonic := .scanRow, operands := [8] } : AsmLine).wf = false := by decide
theorem test_wf_line : ({ mnemonic := .write, operands := [0xFFFF, 0xFF] } : AsmLine).wf = true := by decide
/-- P3: WRITE16 stores little-endian. -/
theorem test_assemble_write16 :
    assembleLine "WRITE16 0x400C, 0x5000 ; the pointer".toList = some [0x20400C00#32, 0x20400D50#32] := by decide
/-- P2: SCAN_ROW 3 is PORT_IN 0xF7FE. A line with a bad literal is no operation. -/
theorem test_assemble_scanRow :
    assembleLine "SCAN_ROW 3".toList = some [0x30F7FE00#32] ∧ assembleLine "READ 0x10000".toList = none := by decide
/-- 95 P4: lines that hold only a comment, or nothing, have no words (log 18). -/
theorem test_assemble_comment :
    assembleLine "        ;  phase Init -> Running".toList = some [] ∧ assembleLine "".toList = some [] := by decide
/-- R96: TAP and BOOT. -/
theorem test_assemble_tap_boot :
    assembleLine "TAP 97".toList = some [0x50006100#32, 0x60006100#32] ∧
    assembleLine "BOOT".toList = some [0x80000000#32, 0x70000000#32, 0x90000000#32] := by decide

theorem test_config_tc : tc.WellFormed := by decide
/-- V23: an image of 4096 bytes. -/
theorem test_config_illFormed_image :
    ¬ ({ tc with romImage := { tc.romImage with size := 0x1000 } } : Config).WellFormed := by decide
/-- V24 and R114: equal offsets, one entry. -/
theorem test_config_illFormed_patch :
    ¬ ({ tc with romPatch := [(0x0200#16, 0xC9#8), (0x0200#16, 0xC9#8)] } : Config).WellFormed ∧
    ¬ ({ tc with romPatch := [(0x0200#16, 0xC9#8)] } : Config).WellFormed := by decide
/-- V25: an offset outside the image. -/
theorem test_config_illFormed_offset :
    ¬ ({ tc with romPatch := [(0x2200#16, 0xC9#8), (0x0201#16, 0xC9#8)] } : Config).WellFormed := by decide
/-- V68: a character set that does not fit; R176: one that just fits. -/
theorem test_config_charset :
    ¬ ({ tc with charsetBase := 0x1F00#16 } : Config).WellFormed ∧
    ¬ ({ tc with charsetBase := 0x1E01#16 } : Config).WellFormed := by decide
/-- V52 and V53: no column bit, two column bits. -/
theorem test_config_illFormed_keymap :
    ¬ ({ tc with keymap := [(0x0061#16, 0x20#8)] } : Config).WellFormed ∧
    ¬ ({ tc with keymap := [(0x0061#16, 0x63#8)] } : Config).WellFormed := by decide

/-! ## The memory bus -/

/-- V8, V9, V10: the filter at 0x8000 and above. -/
theorem test_fetch_floating :
    (after (.fetch 0x8000#16) ready).last = .value 0xD3#8 ∧ (after (.fetch 0x8001#16) ready).last = .value 0x00#8 ∧
    (after (.fetch 0xA200#16) ready).last = .value 0xC9#8 := by decide +kernel
/-- V6, V7: 0x7FFF is below the window, 0xFFFF above it. -/
theorem test_fetch_edge :
    (after (.fetch 0x7FFF#16) (readyWith [(0x7FFF#16, 0x3F#8)])).last = .value 0x3F#8 ∧
    (after (.fetch 0xFFFF#16) (readyWith [(0x7FFF#16, 0x3F#8)])).last = .value 0x00#8 := by decide +kernel
/-- V2, V11, V15. -/
theorem test_read :
    (after (.read 0x2000#16) ready).last = .value 0xD3#8 ∧ (after (.read 0x1E08#16) ready).last = .value 0xA0#8 ∧
    (after (.read 0x8000#16) ready).last = .value 0x00#8 := by decide +kernel
/-- V16: a READ before SETUP sets `fault` with its word, and then no word has a step. -/
theorem test_read_beforeSetup :
    (afterWord 0x10400000#32 on).fault = some { reason := .fault .beforeSetup, word := some 0x10400000#32 } := by
  decide +kernel
/-- V3, V4: the first RAM address is 0x4000. -/
theorem test_write_boundary :
    (after (.write 0x3FFF#16 0x12#8) ready).mem.readByte 0x3FFF#16 = 0x00#8 ∧
    (after (.write 0x4000#16 0x12#8) ready).mem.readByte 0x4000#16 = 0x12#8 := by decide +kernel
/-- Writing what an unlisted cell reads as takes the cell out, so memories that read alike are equal. -/
theorem test_write_zero :
    (after (.write 0x4000#16 0x00#8) (readyWith [(0x4000#16, 0x12#8)])).mem = ready.mem := by decide +kernel
/-- V20, V21: image, ghost, patch, RAM. -/
theorem test_setup :
    ([0x0000#16, 0x2000#16, 0x2100#16, 0x0200#16, 0x2201#16, 0x4000#16, 0xFFFF#16].map
      (after .setup on).mem.readByte) = [0xD3#8, 0xD3#8, 0x55#8, 0xC9#8, 0xC9#8, 0x00#8, 0x00#8] := by decide +kernel
/-- V22: a second SETUP. -/
theorem test_setup_repeated : (after .setup ready).last = .stopped (.refused .repeatedSetup) := by decide +kernel

/-! ## The keyboard -/

/-- The rows of section 3.3: keys 0x0061, 0x0062 and 0x0004 held. -/
def held : State := { on with rows := #v[0xFB#8, 0xFE#8, 0xFF#8, 0xFD#8, 0xFF#8, 0xFF#8, 0xFF#8, 0xFF#8] }

/-- V35, V36, V39: the lowest zero bit selects; bits 7..1 of the port are ignored. -/
theorem test_portIn :
    (after (.portIn 0x00FE#16) held).last = .value 0xFB#8 ∧ (after (.portIn 0xF5FE#16) held).last = .value 0xFE#8 ∧
    (after (.portIn 0xF700#16) held).last = .value 0xFD#8 := by decide
/-- V37, V38 with defaults told apart. -/
theorem test_portIn_default :
    (after (.portIn 0xFFFE#16) { held with cfg := { tc with noRowValue := 0x5A#8 } }).last = .value 0x5A#8 ∧
    (after (.portIn 0xFEFF#16) { held with cfg := { tc with otherPortValue := 0xA5#8 } }).last = .value 0xA5#8 := by
  decide
/-- V40. -/
theorem test_portOut : after (.portOut 0x00FD#16 0x00#8) held = { held with last := .done } := rfl
/-- V41, V47. -/
theorem test_keyDown :
    (after (.keyDown 0x0061#16) on).rows = on.rows.set 3 0xFD#8 ∧
    (after (.keyDown 0x0001#16) held).rows = held.rows.set 0 0xFA#8 := by decide
/-- V45, V51: the delete key is looked up first. -/
theorem test_keyDown_delete :
    (after (.keyDown 0x0008#16) { on with cfg := { tc with keymap := [(0x0008#16, 0x62#8)] } }).rows =
      (on.rows.set 0 0xFE#8).set 4 0xFE#8 := by decide
/-- V43, V49. -/
theorem test_keyUp :
    (after (.keyUp 0x0061#16) held).rows = held.rows.set 3 0xFF#8 ∧
    (after (.keyUp 0x1234#16) held).rows = held.rows := by decide
/-- V48: releasing delete releases a position another key still holds. -/
theorem test_keyUp_delete :
    (after (.keyUp 0x0008#16) { on with rows := (on.rows.set 0 0xFE#8).set 4 0xFE#8 }).rows = on.rows := by decide
/-- V50. -/
theorem test_kbReset : (after .kbReset held).rows = on.rows := by decide

/-! ## The atlas -/

/-- W8, V60, V61: one glyph byte, in the normal and in the inverted cell. -/
theorem test_atlasBuild_expansion :
    (expandByte .fg .bg 0xA0#8).toList = [.fg, .fg, .bg, .bg, .fg, .fg] ++ List.replicate 10 .bg ∧
    (expandByte .bg .fg 0xA0#8).toList = [.bg, .bg, .fg, .fg, .bg, .bg] ++ List.replicate 10 .fg := by decide
/-- V63, V65: pixels of the atlas surface. -/
theorem test_atlasBuild_surface :
    [(16, 0), (20, 1), (1040, 0), (1042, 0), (33, 14), (34, 15)].map
      (fun p => surfacePixel (after .atlasBuild on).atlas p.1 p.2) = [.fg, .fg, .bg, .fg, .fg, .bg] := by decide +kernel

/-! ## Redraw and frames -/

/-- V73, V74, V75: the code of row 1 column 0, of the last cell, and a 0x76 among the codes. -/
theorem test_redraw_cells :
    let s := readyWith [(0x400D#16, 0x50#8), (0x5005#16, 0x76#8), (0x5021#16, 0x02#8), (0x5316#16, 0x01#8)]
    let sc := (after .redraw s).screen
    [sc.pixel 0 79, sc.pixel 0 80, sc.pixel 16 0, sc.pixel 18 0, sc.pixel 368 500, sc.pixel 368 498] =
      [.bg, .fg, .fg, .bg, .fg, .bg] := by decide +kernel
/-- V77, by policy: a code of 0xC1. -/
theorem test_redraw_highCodes :
    let cell := fun policy => (after .redraw { readyWith [(0x400D#16, 0x50#8), (0x5000#16, 0xC1#8)] with
      cfg := { tc with highCodePolicy := policy } }).screen.cell 0 0
    cell .unchanged = .undrawn ∧ cell .mask7 = .drawn (buildAtlas tc)[0x41] ∧ cell .blank = .drawn blankImage := by
  decide +kernel

/-- V94: events after a quit are not applied; no redraw, the run ends. -/
theorem test_frame_quit :
    let t := after .frame (drawing [.keyDown 0x0061#16, .quit, .keyDown 0x0062#16])
    t.rows = on.rows.set 3 0xFD#8 ∧ t.quit = true ∧ t.phase = .quit ∧ t.presented.length = 0 := by decide +kernel
/-- P4, first frame: the engine's step and the drain, and a frame presented from the pointer the step wrote. -/
theorem test_frame_engine :
    let t := after .frame { stepping (.fetch 0x0000#16 (.ifResult 0xD3#8 (.write 0x400D#16 0x50#8 (.done 1)) .hang)) ready with
      host := sends [.other 7, .keyDown 0x0061#16] }
    t.phase = .running ∧ t.rows = on.rows.set 3 0xFD#8 ∧ t.mem.readByte 0x400D#16 = 0x50#8 ∧
      t.presented.map (·.pixel 0 0) = [.bg] ∧ t.engine.state = 1 := by decide +kernel
/-- R192, R273: an engine that issues a WRITE in every step, for ever; one whose step never ends. -/
theorem test_frame_perpetual :
    let s := stepping (.write 0x4000#16 0x01#8 (.done 0)) ready
    (after .frame s).engine = s.engine ∧ (after .frame s).mem.readByte 0x4000#16 = 0x01#8 := by decide +kernel
theorem test_frame_hang :
    exec .frame (stepping (.portIn 0xFEFE#16 (.ifResult 0xFF#8 .hang (.done 0))) ready) = .fault .engineHang := rfl

/-- V106, V107: decode before the terminal check. -/
theorem test_checkOrder_terminal :
    (afterWord 0xC0000000#32 { on with phase := .quit }).last = .stopped (.refused .reservedOp) ∧
    (afterWord 0x10400000#32 { on with phase := .quit }).last = .stopped (.refused .terminal) := by decide +kernel
/-- V109: the configuration before decode. -/
theorem test_checkOrder_config :
    (afterWord 0xC0000000#32 { on with cfg := { tc with charsetBase := 0x1F00#16 } }).last =
      .stopped (.refused .badConfig) := by decide +kernel
/-- V110: the host fails the presentation surface at step 4 of boot. -/
theorem test_boot_failure :
    (bootSurface false .atlasBuild { on with stage := .screenSurface }).phase = .failed := by decide

/-! ## The hypotheses of the statements are met -/

theorem on_ready : on.Ready := ⟨rfl, by decide, rfl⟩
theorem ready_ready : ready.Ready := ⟨rfl, by decide, rfl⟩
theorem ready_busReady : ready.BusReady := ⟨ready_ready, rfl⟩
theorem ready_drawReady : ready.DrawReady := ⟨ready_busReady, rfl⟩
theorem drawing_drawReady (events : List HostEvent) : (drawing events).DrawReady :=
  ⟨⟨⟨rfl, show configOk tc = true by decide, rfl⟩, rfl⟩, rfl⟩

theorem witness_EncodeDecodeRoundTrip : decode 0x20400012#32 = .ok (.write 0x4000#16 0x12#8) := by decide

theorem witness_StepRunsTheDecodedWord :
    let s := { ready with pending := [0x10400000#32] }
    s.fault = none ∧ s.pending = 0x10400000#32 :: [] ∧ decode 0x10400000#32 = .ok (.read 0x4000#16) :=
  ⟨rfl, rfl, by decide⟩

/-- Under a well-formed and under an ill-formed configuration. -/
theorem witness_StepRefusesAWordThatSpellsNoOperation :
    let s := { ready with pending := [0xC0000000#32] }
    let bad := { s with cfg := { tc with charsetBase := 0x1E01#16 } }
    s.fault = none ∧ s.pending = 0xC0000000#32 :: [] ∧ decode 0xC0000000#32 = .error .reservedOp ∧
      configOk s.cfg = true ∧ bad.fault = none ∧ bad.pending = s.pending ∧ configOk bad.cfg = false :=
  ⟨rfl, rfl, by decide, by decide, rfl, rfl, by decide⟩

/-- An ill-formed configuration; an ended run of either kind. -/
theorem witness_CommonChecksComeFirst :
    let bad := { ready with cfg := { tc with charsetBase := 0x1E01#16 } }
    let quit := { ready with phase := .quit }
    let failed := { ready with phase := .failed }
    (bad.fault = none ∧ configOk bad.cfg = false) ∧ (quit.fault = none ∧ configOk quit.cfg = true ∧ quit.phase = .quit) ∧
      (failed.fault = none ∧ configOk failed.cfg = true ∧ failed.phase = .failed) :=
  ⟨⟨rfl, by decide⟩, ⟨rfl, by decide, rfl⟩, ⟨rfl, by decide, rfl⟩⟩

theorem witness_AFaultedStateHasNoStep :
    (on.raise (.fault .beforeSetup) (some 0x10400000#32)).fault =
      some { reason := .fault .beforeSetup, word := some 0x10400000#32 } := rfl

theorem witness_OperationsBeforeTheirStateIsSetFault :
    (on.Ready ∧ on.setupDone = false) ∧
    ({ ready with atlasBuilt := false }.Ready ∧ { ready with atlasBuilt := false }.setupDone = true ∧
      { ready with atlasBuilt := false }.atlasBuilt = false) :=
  ⟨⟨on_ready, rfl⟩, ⟨rfl, by decide, rfl⟩, rfl, rfl⟩

/-- A mapped key of an accepted configuration. -/
theorem witness_AcceptedConfigurationsMeetEveryCondition :
    configOk tc = true ∧ keymapEntry tc 0x0061#16 = some 0x62#8 := by decide

/-- The two sides of 0x8000; in the window a byte with bit 6 set and one with it clear. -/
theorem witness_FetchIsFilteredInTheFloatingWindowOnly :
    ready.BusReady ∧ (0x7FFF#16).getLsbD 15 = false ∧ (0x8000#16).getLsbD 15 = true ∧
    (ready.mem.readByte (0x8000#16 &&& 0x7FFF#16)).getLsbD 6 = true ∧
    (ready.mem.readByte (0x8001#16 &&& 0x7FFF#16)).getLsbD 6 = false :=
  ⟨ready_busReady, by decide, by decide, by decide +kernel, by decide +kernel⟩

/-- The two sides of 0x4000; an operation that is not SETUP and answers a next state. -/
theorem witness_OnlySetupStoresIntoTheRomWindow :
    ready.BusReady ∧ (0x3FFF#16).toNat < 0x4000 ∧ 0x4000 ≤ (0x4000#16).toNat ∧
    Instr.read 0x3FFF#16 ≠ .setup ∧
    exec (.read 0x3FFF#16) ready = .next { ready with last := .value (ready.readByte 0x3FFF#16) } :=
  ⟨ready_busReady, by decide, by decide, by decide, rfl⟩

theorem witness_ReadAfterWriteGivesTheByteOnlyInRam : ready.BusReady := ready_busReady

/-- Both ends of low RAM; the first address above it and the last below it. -/
theorem witness_FetchSeesWritesToLowRamOnly :
    ready.BusReady ∧ (0x4000 ≤ (0x4000#16).toNat ∧ (0x4000#16).toNat < 0x8000) ∧
    (0x4000 ≤ (0x7FFF#16).toNat ∧ (0x7FFF#16).toNat < 0x8000) ∧ 0x8000 ≤ (0x8000#16).toNat ∧
    (0x3FFF#16).toNat < 0x4000 :=
  ⟨ready_busReady, by decide, by decide, by decide, by decide⟩

/-- Two memories that differ at 0x8000 alone. -/
theorem witness_UpperMemoryIsNeverFetched :
    let other := readyWith [(0x8000#16, 0x99#8)]
    ready.BusReady ∧ other.BusReady ∧ ready.mem ≠ other.mem ∧
    ∀ a : Addr, a.toNat < 0x8000 → ready.mem.readByte a = other.mem.readByte a := by
  refine ⟨ready_busReady, ⟨⟨rfl, show configOk tc = true by decide, rfl⟩, rfl⟩, by decide +kernel, fun a h => ?_⟩
  have hm : (readyWith [(0x8000#16, 0x99#8)]).mem = ready.mem ++ [(0x8000, 0x99#8)] := by decide +kernel
  have ha : (a.toNat == 0x8000) = false := by simpa using Nat.ne_of_lt h
  rw [hm, Memory.readByte, Memory.readByte, List.lookup_append, List.lookup_cons, ha]
  simp

theorem witness_ReadingOperationsChangeNothingAndRepeat : ready.BusReady := ready_busReady

/-- A patched offset and one that is not; both ends of the window and of RAM. -/
theorem witness_SetupFillsBothRomWindowsAndZeroesRam :
    on.Ready ∧ on.setupDone = false ∧ (0x1FFF#16).toNat < 0x2000 ∧ 0x4000 ≤ (0x4000#16).toNat ∧
    0xC9#8 = (on.cfg.romPatch.lookup 0x0200#16).getD (romByte on.cfg 0x0200#16) ∧
    0x55#8 = (on.cfg.romPatch.lookup 0x0100#16).getD (romByte on.cfg 0x0100#16) :=
  ⟨on_ready, rfl, by decide, by decide, by decide, by decide⟩

theorem witness_SetupAfterSetupIsRefused : ready.BusReady := ready_busReady

/-- The keyboard's three cases: the lowest zero bit is 3, there is none, bit 0 is set. -/
theorem witness_KeyboardIsTheOnlyDevice :
    on.Ready ∧ ready.BusReady ∧
    ((0xF7FE#16).getLsbD 0 = false ∧ (0xF7FE#16).getLsbD (8 + (3 : Fin 8)) = false ∧
      ∀ j : Fin 8, j < 3 → (0xF7FE#16).getLsbD (8 + j) = true) ∧
    ((0xFFFE#16).getLsbD 0 = false ∧ ∀ j : Fin 8, (0xFFFE#16).getLsbD (8 + j) = true) ∧ (0x0001#16).getLsbD 0 = true :=
  ⟨on_ready, ready_busReady, by decide, by decide, by decide⟩

theorem witness_PortOutIsANoOpNoOperationSees : on.Ready := on_ready

/-- The delete key, an unmapped key, a mapped key. -/
theorem witness_KeyDownClearsTheKeysBits :
    on.Ready ∧ 0x0008#16 = on.cfg.deleteKey ∧
    (0x1234#16 ≠ on.cfg.deleteKey ∧ keymapEntry on.cfg 0x1234#16 = none) ∧
    (0x0061#16 ≠ on.cfg.deleteKey ∧ keymapEntry on.cfg 0x0061#16 = some 0x62#8) :=
  ⟨on_ready, by decide, by decide, by decide⟩

/-- The delete key, an unmapped key, a mapped key. -/
theorem witness_KeyUpSetsTheKeysBits :
    on.Ready ∧ 0x0008#16 = on.cfg.deleteKey ∧
    (0x1234#16 ≠ on.cfg.deleteKey ∧ keymapEntry on.cfg 0x1234#16 = none) ∧
    (0x0061#16 ≠ on.cfg.deleteKey ∧ keymapEntry on.cfg 0x0061#16 = some 0x62#8) :=
  ⟨on_ready, by decide, by decide, by decide⟩

theorem witness_KbResetReleasesEveryKey : on.Ready ∧ on.cfg.rowReset &&& 0x1F#8 = 0x1F#8 := ⟨on_ready, by decide⟩

theorem witness_UnmappedHostKeysAreIgnored :
    on.Ready ∧ 0x1234#16 ≠ on.cfg.deleteKey ∧ keymapEntry on.cfg 0x1234#16 = none :=
  ⟨on_ready, by decide, by decide⟩

theorem witness_KeyPressAndReleaseAreReadBack :
    on.Ready ∧ 0x0061#16 ≠ on.cfg.deleteKey ∧ keymapEntry on.cfg 0x0061#16 = some 0x62#8 ∧ 1 < 5 ∧
      (0x62#8).getLsbD 1 = true :=
  ⟨on_ready, by decide, by decide, by decide, by decide⟩

theorem witness_ScanRowReadsItsRow : on.Ready := on_ready

/-- The last pixel of the last glyph. -/
theorem witness_AtlasBuildExpandsEveryGlyph :
    on.Ready ∧ 63 < 64 ∧ 7 < 8 ∧ 7 < 8 ∧ 1 < 2 ∧ 1 < 2 ∧
      0x00#8 = romByte on.cfg (on.cfg.charsetBase + BitVec.ofNat 16 (8 * 63 + 7)) :=
  ⟨on_ready, by decide, by decide, by decide, by decide, by decide, by decide⟩

/-- Before and after SETUP, with other patches. -/
theorem witness_AtlasBuildDependsOnTheRomImageAlone :
    let other := { ready with cfg := { tc with romPatch := [(0x1E08#16, 0x00#8), (0x1E10#16, 0x00#8)] } }
    on.Ready ∧ other.Ready ∧ on.cfg.romImage = other.cfg.romImage ∧ on.cfg.charsetBase = other.cfg.charsetBase :=
  ⟨on_ready, ⟨rfl, by decide, rfl⟩, rfl, rfl⟩

theorem witness_InvertedCellsAreTheOppositeOfNormalOnes : on.Ready ∧ 1023 < 1024 ∧ 15 < 16 :=
  ⟨on_ready, by decide, by decide⟩

/-- The last cell; codes 0x7F and 0x80 are the boundary of a code's two cases, under each policy. -/
theorem witness_RedrawDrawsEveryCellFromItsCode :
    let s := readyWith [(0x400D#16, 0x50#8), (0x5000#16, 0x7F#8), (0x5001#16, 0x80#8)]
    s.DrawReady ∧ 23 < 24 ∧ 31 < 32 ∧
    0x7F#8 = s.mem.readByte (s.displayPointer + s.cfg.rowBaseOffset + BitVec.ofNat 16 (33 * 0 + 0)) ∧
    0x80#8 = s.mem.readByte (s.displayPointer + s.cfg.rowBaseOffset + BitVec.ofNat 16 (33 * 0 + 1)) ∧
    s.cfg.highCodePolicy = .mask7 ∧
    { s with cfg := { tc with highCodePolicy := .unchanged } }.DrawReady ∧
    { s with cfg := { tc with highCodePolicy := .blank } }.DrawReady :=
  ⟨⟨⟨⟨rfl, show configOk tc = true by decide, rfl⟩, rfl⟩, rfl⟩, by decide, by decide, by decide +kernel,
    by decide +kernel, rfl, ⟨⟨⟨rfl, by decide, rfl⟩, rfl⟩, rfl⟩, ⟨⟨⟨rfl, by decide, rfl⟩, rfl⟩, rfl⟩⟩

theorem witness_PresentedPixelsAreAtlasPixels :
    (drawing []).DrawReady ∧ 23 < 24 ∧ 31 < 32 ∧ 15 < 16 ∧ 15 < 16 ∧
    0x00#8 = (drawing []).mem.readByte
      ((drawing []).displayPointer + (drawing []).cfg.rowBaseOffset + BitVec.ofNat 16 (33 * 23 + 31)) ∧
    (0x00#8).toNat < 0x80 :=
  ⟨drawing_drawReady [], by decide, by decide, by decide, by decide, by decide +kernel, by decide⟩

theorem witness_DisplayPointerIsLittleEndian :
    (drawing []).DrawReady ∧
    0x5000#16 = ((drawing []).mem.readByte (drawing []).cfg.dfilePtrAddr).setWidth 16 |||
      (((drawing []).mem.readByte ((drawing []).cfg.dfilePtrAddr + 1#16)).setWidth 16 <<< 8) :=
  ⟨drawing_drawReady [], by decide +kernel⟩

/-- V76: a pointer of 0xFFF0 wraps at column 16. -/
theorem witness_AnyDisplayPointerIsValid :
    let s := readyWith [(0x400C#16, 0xF0#8), (0x400D#16, 0xFF#8)]
    s.DrawReady ∧ 0 < 24 ∧ 16 < 32 ∧
    (0x0000#16).toNat = (s.displayPointer.toNat + s.cfg.rowBaseOffset.toNat + (33 * 0 + 16)) % 0x10000 :=
  ⟨⟨⟨⟨rfl, show configOk tc = true by decide, rfl⟩, rfl⟩, rfl⟩, by decide, by decide, by decide +kernel⟩

/-- Under Mask7; and under Unchanged with a display file of zeros. -/
theorem witness_FullRedrawForgetsTheOldScreen :
    let unchanged := { drawing [] with cfg := { tc with highCodePolicy := .unchanged } }
    ((drawing []).DrawReady ∧ (drawing []).cfg.highCodePolicy ≠ .unchanged) ∧ unchanged.DrawReady ∧
    ∀ row : Fin 24, ∀ col : Fin 32,
      (unchanged.mem.readByte (unchanged.displayPointer + unchanged.cfg.rowBaseOffset +
        BitVec.ofNat 16 (33 * row + col))).toNat < 0x80 :=
  ⟨⟨drawing_drawReady [], by decide⟩, ⟨⟨⟨rfl, by decide, rfl⟩, rfl⟩, rfl⟩, by decide +kernel⟩

theorem witness_ZeroCodesDrawRowZeroAsGlyphZero :
    (drawing []).DrawReady ∧ 0x5000#16 = (drawing []).displayPointer + (drawing []).cfg.rowBaseOffset ∧
    ∀ k : Fin 32, (drawing []).mem.readByte (0x5000#16 + BitVec.ofNat 16 k) = 0x00#8 :=
  ⟨drawing_drawReady [], by decide +kernel, by decide +kernel⟩

/-- No engine step is asked for, so the slice ends. -/
theorem drawing_sliced (events : List HostEvent) : (drawing events).sliced = some (drawing events).started := rfl

/-- Without a quit event and with one. -/
theorem witness_FrameIsSliceThenDrainThenRedraw :
    let s := drawing []
    let q := drawing [.quit]
    (s.DrawReady ∧ slice s.cfg.stepsPerFrame { s with phase := .running } = some { s with phase := .running } ∧
      ({ s with phase := .running } : State).drained.quit = false) ∧
    (q.DrawReady ∧ slice q.cfg.stepsPerFrame { q with phase := .running } = some { q with phase := .running } ∧
      ({ q with phase := .running } : State).drained.quit = true) :=
  ⟨⟨drawing_drawReady [], rfl, by decide +kernel⟩, ⟨drawing_drawReady [.quit], rfl, by decide +kernel⟩⟩

/-- The first of its steps never ends. -/
theorem witness_FrameIsStuckExactlyIfAnEngineStepNeverEnds :
    let s := stepping .hang ready
    s.DrawReady ∧ 0 < s.cfg.stepsPerFrame ∧ slice 0 s.started = some s.started ∧
      engineStep s.started.engine.step none s.started = none :=
  ⟨⟨⟨⟨rfl, by decide, rfl⟩, rfl⟩, rfl⟩, by decide, rfl, rfl⟩

/-- Without a quit event and with one. -/
theorem witness_FrameRedrawsOnlyIfNotQuitting :
    ((drawing []).DrawReady ∧ (drawing []).sliced = some (drawing []).started ∧
      (after .frame (drawing [])).quit = false) ∧
    ((drawing [.quit]).DrawReady ∧ (drawing [.quit]).sliced = some (drawing [.quit]).started ∧
      (after .frame (drawing [.quit])).quit = true) :=
  ⟨⟨drawing_drawReady [], drawing_sliced _, by decide +kernel⟩,
    ⟨drawing_drawReady [.quit], drawing_sliced _, by decide +kernel⟩⟩

/-- The latest result is the one asked for, and it is not; the engine's state is in its table; a step ends. -/
theorem witness_EngineTransactionsAreTheFiveOperations :
    ready.BusReady ∧ some 0xFD#8 = some 0xFD#8 ∧ (none : Option Byte) ≠ some 0xFD#8 ∧
    EngineAgent.idle.steps.lookup EngineAgent.idle.state = some (.done 0) ∧
    engineStep (.read 0x4000#16 (.done 0)) none on = some on :=
  ⟨ready_busReady, rfl, by decide, by decide, rfl⟩

/-- A slice of one step, and a FRAME. -/
theorem witness_RowsAreFixedDuringASlice :
    let s := stepping (.portIn 0xF7FE#16 (.done 0)) (drawing [.keyDown 0x0061#16])
    slice 1 s = some s ∧ s.DrawReady ∧ s.sliced = some s.started :=
  ⟨rfl, ⟨⟨⟨rfl, show configOk { tc with stepsPerFrame := 1 } = true by decide, rfl⟩, rfl⟩, rfl⟩, rfl⟩

theorem witness_DrainAppliesEventsInOrderUpToAQuit :
    let s := drawing [.keyDown 0x0061#16]
    s.Ready ∧ HostEvent.quit ∉ [HostEvent.keyDown 0x0061#16] ∧
    s.host.drains.lookup s.host.state = some { events := [.keyDown 0x0061#16], next := 0 } ∧
    s.DrawReady ∧ s.sliced = some s.started :=
  ⟨(drawing_drawReady _).toReady, by decide, rfl, drawing_drawReady _, drawing_sliced _⟩

/-- With a word pending, so that a step follows. -/
theorem witness_QuitEventEndsTheRunAfterItsSlice :
    let s := { drawing [.keyDown 0x0061#16, .quit] with pending := [0x10400000#32] }
    s.DrawReady ∧ s.sliced = some s.started ∧ HostEvent.quit ∈ s.nextDrain ∧
      ∃ u, step (after .frame s) = .next u :=
  ⟨⟨⟨⟨rfl, show configOk tc = true by decide, rfl⟩, rfl⟩, rfl⟩, rfl, by decide +kernel, ⟨_, rfl⟩⟩

/-- A step from a state that has not quit, whose FRAME meets a quit event. -/
theorem witness_QuitIsSetByAQuitEventAloneAndNeverCleared :
    (drawing [.quit]).DrawReady ∧ (drawing [.quit]).sliced = some (drawing [.quit]).started ∧
    HostEvent.quit ∈ (drawing [.quit]).nextDrain ∧
    step (drawing [.quit]) = .next (after .frame (drawing [.quit])) ∧ (drawing [.quit]).quit = false ∧
    (after .frame (drawing [.quit])).quit = true :=
  ⟨drawing_drawReady _, drawing_sliced _, by decide +kernel, rfl, rfl, by decide +kernel⟩

/-- A slice that stores to 0x400D alone. -/
theorem witness_FrameLeavesUnwrittenMemoryAlone :
    let s := stepping (.write 0x400D#16 0x50#8 (.done 0)) ready
    s.DrawReady ∧ s.sliced = some (s.started.writeByte 0x400D#16 0x50#8) ∧ 0x400C#16 ∉ sliceStores s.cfg.stepsPerFrame s.started :=
  ⟨⟨⟨⟨rfl, by decide, rfl⟩, rfl⟩, rfl⟩, rfl, by decide +kernel⟩

theorem witness_PressAndReleaseInOneDrainIsNeverSeen :
    let s := drawing [.keyDown 0x0061#16, .keyUp 0x0061#16]
    s.DrawReady ∧ s.sliced = some s.started ∧ 0x0061#16 ≠ s.cfg.deleteKey ∧ keymapEntry s.cfg 0x0061#16 = some 0x62#8 ∧
    s.nextDrain = [.keyDown 0x0061#16, .keyUp 0x0061#16] ∧
    s.rows[scanRow 0x62#8] &&& (0x62#8 &&& 0x1F#8) = 0x62#8 &&& 0x1F#8 :=
  ⟨drawing_drawReady _, drawing_sliced _, by decide, by decide, rfl, by decide +kernel⟩

theorem witness_EachStateIsChangedByItsOperationsAlone :
    exec .kbReset on = .next (after .kbReset on) := rfl

/-- A step that answers a next state, in phases that last. -/
theorem witness_StepsNeverGoBack :
    let s := { ready with pending := [0x10400000#32], phase := .quit, quit := true }
    let r := { ready with pending := [0x10400000#32], phase := .running }
    let f := { ready with pending := [0x10400000#32], phase := .failed }
    (∃ t, step s = .next t) ∧ s.setupDone = true ∧ s.atlasBuilt = true ∧ s.quit = true ∧
    (∃ t, step r = .next t) ∧ (∃ t, step f = .next t) :=
  ⟨⟨_, rfl⟩, rfl, rfl, rfl, ⟨_, rfl⟩, ⟨_, rfl⟩⟩

theorem witness_PowerOnHoldsTheResetValues : on = State.powerOn tc EngineAgent.idle HostAgent.quiet := rfl

theorem witness_BootReachesTheFrameLoop :
    configOk tc = true ∧ HostAgent.quiet.screenSurfaceOk = true ∧ HostAgent.quiet.atlasSurfaceOk = true := by decide

/-- The three ways boot fails. -/
theorem witness_BootFailuresEndTheRun :
    configOk { tc with charsetBase := 0x1E01#16 } = false ∧ configOk tc = true ∧
    ({ HostAgent.quiet with screenSurfaceOk := false } : HostAgent).screenSurfaceOk = false ∧
    ({ HostAgent.quiet with atlasSurfaceOk := false } : HostAgent).atlasSurfaceOk = false := by decide

theorem witness_CanonicalMemoriesThatReadAlikeAreEqual :
    ready.mem.wf = true ∧ ready.mem ≠ [] := by decide +kernel

end Sys2Proof.Tests
end

section
/-! SUPPORT. What a step can do, one inversion lemma per function it is made of, and from that what becomes of `quit`
(10_state.md R30). -/

namespace Sys2Proof.Machine

/-! ## What a step can do -/

/-- The check of its own that an operation makes before its effect (60_exceptions.md R237, check (6)). -/
def ownCheck : Instr → State → Option Stop
  | .fetch _, s | .read _, s | .write _ _, s => s.setupCheck
  | .setup, s => s.repeatCheck
  | .redraw, s | .frame, s => s.drawCheck
  | _, _ => none

/-- What an operation does once its checks pass. -/
def effect : Instr → State → Host.Outcome State Fault Refusal
  | .fetch a, s => .next (s.answer (s.fetchByte a))
  | .read a, s => .next (s.answer (s.readByte a))
  | .write a v, s => .next (s.writeByte a v).done
  | .portIn p, s => .next (s.answer (s.portInByte p))
  | .portOut p v, s => .next (s.portOutByte p v).done
  | .keyDown k, s => .next (s.pressKey k).done
  | .keyUp k, s => .next (s.releaseKey k).done
  | .kbReset, s => .next s.releaseAll.done
  | .setup, s => .next { s.done with mem := setupMemory s.cfg, setupDone := true }
  | .atlasBuild, s => .next { s.done with atlas := buildAtlas s.cfg, atlasBuilt := true }
  | .redraw, s => .next s.redrawn.done
  | .frame, s => s.frameEffect

/-- Every operation is its checks and then its effect. -/
theorem exec_eq_operateTo (i : Instr) (s : State) : exec i s = operateTo (encode i) (ownCheck i s) (effect i s) s := by
  cases i <;> rfl

/-- An operation stops at a check with a record of it, or has its effect. -/
theorem exec_cases {i : Instr} {s t : State} (h : exec i s = .next t) :
    s.fault = none ∧ ((∃ r, t = s.raise r (some (encode i))) ∨
      (s.commonRefusal = none ∧ ownCheck i s = none ∧ effect i s = .next t)) := by
  rw [exec_eq_operateTo] at h
  obtain ⟨hf, ⟨r, -, ht⟩ | ⟨-, r, -, ht⟩ | he⟩ := operateTo_cases h
  · exact ⟨hf, .inl ⟨_, ht⟩⟩
  · exact ⟨hf, .inl ⟨r, ht⟩⟩
  · exact ⟨hf, .inr he⟩

/-- FRAME has a next state after its checks only where its slice ends (43_frame.md R190, R192). -/
theorem State.frameEffect_eq_next {s t : State} (h : s.frameEffect = .next t) :
    ∃ u, s.sliced = some u ∧ t = u.framed.done := by
  unfold State.frameEffect at h
  split at h
  · next u hu => exact ⟨u, hu, by cases h; rfl⟩
  · cases h

/-- An issued word is an operation that runs, or one that is refused (60_exceptions.md R237). -/
theorem issueWord_cases {w : Word} {s t : State} (h : issueWord w s = .next t) :
    (∃ i, decode w = .ok i ∧ exec i s = .next t) ∨
    (∃ e, decode w = .error e ∧ s.fault = none ∧
      t = s.raise (.refused (if configOk s.cfg then refusalOf e else .badConfig)) (some w)) := by
  unfold issueWord at h
  split at h
  · next i hi => exact .inl ⟨i, hi, h⟩
  · next e he =>
    unfold refuseWord at h
    split at h
    · cases h
    · next hf => exact .inr ⟨e, he, hf, by cases h; rfl⟩

/-- Everything the orchestrator can do: an operation, or a step of boot that is none (70_reset_and_hazards.md R261). -/
theorem orchestrate_cases {s t : State} (h : orchestrate s = .next t) :
    s.phase.isTerminal = false ∧
    ((∃ i stage, exec i { s with stage := stage } = .next t) ∨
     (s.stage = .checkConfig ∧ t = bootCheck s) ∨
     (∃ ok following, t = bootSurface ok following s) ∨
     (s.stage = .engineReset ∧ t = { s with stage := .loop })) := by
  unfold orchestrate at h
  split at h
  · cases h
  · next hp =>
    refine ⟨by simpa using hp, ?_⟩
    split at h
    case h_1 hs => exact .inr (.inl ⟨hs, by cases h; rfl⟩)
    case h_2 => exact .inl ⟨_, _, h⟩
    case h_3 => exact .inl ⟨_, _, h⟩
    case h_4 => exact .inr (.inr (.inl ⟨_, _, by cases h; rfl⟩))
    case h_5 => exact .inl ⟨_, _, h⟩
    case h_6 => exact .inr (.inr (.inl ⟨_, _, by cases h; rfl⟩))
    case h_7 hs => exact .inr (.inr (.inr ⟨hs, by cases h; rfl⟩))
    case h_8 => exact .inl ⟨_, s.stage, h⟩

/-- A step takes the oldest pending word, or else the orchestrator's next operation (log 10, log 11). -/
theorem step_cases {s t : State} (h : step s = .next t) :
    s.fault = none ∧
    ((∃ w rest, s.pending = w :: rest ∧ issueWord w { s with pending := rest } = .next t) ∨
     (s.pending = [] ∧ orchestrate s = .next t)) := by
  unfold step at h
  split at h
  · cases h
  · next hf =>
    unfold advance at h
    split at h
    · next w rest hp => exact ⟨hf, .inl ⟨w, rest, hp, h⟩⟩
    · next hp => exact ⟨hf, .inr ⟨hp, h⟩⟩

/-! ## What becomes of `quit` -/

/-- What R30 lets happen to `quit` between two states: it is kept, or the quit events of the next drain are added. -/
def QuitKeptOrDrained (s t : State) : Prop :=
  t.quit = s.quit ∨ t.quit = (s.quit || s.nextDrain.contains .quit)

/-- Such a `quit` is never cleared. -/
theorem QuitKeptOrDrained.stays {s t : State} (h : QuitKeptOrDrained s t) (hq : s.quit = true) : t.quit = true := by
  rcases h with hk | hd
  · exact hk.trans hq
  · simp [hd, hq]

/-- Such a `quit` is set by a quit event alone. -/
theorem QuitKeptOrDrained.mem_nextDrain {s t : State} (h : QuitKeptOrDrained s t) (hq : s.quit = false)
    (ht : t.quit = true) : HostEvent.quit ∈ s.nextDrain := by
  rcases h with hk | hd
  · simp [hk, hq] at ht
  · simpa [hd, hq] using ht

@[simp] theorem bootCheck_quit (s : State) : (bootCheck s).quit = s.quit := by
  unfold bootCheck; split <;> rfl

@[simp] theorem bootSurface_quit (ok : Bool) (following : BootStage) (s : State) :
    (bootSurface ok following s).quit = s.quit := by
  cases ok <;> rfl

@[simp] theorem State.framed_quit (u : State) : u.framed.quit = (u.quit || u.nextDrain.contains .quit) := by
  simp [State.framed, State.drained_quit]

/-- The slice runs before the drain and leaves alone what the drain will answer. -/
theorem State.sliced_nextDrain {s u : State} (h : s.sliced = some u) : u.nextDrain = s.nextDrain := by
  simp only [State.nextDrain, State.sliced_host h]

/-- FRAME's drain adds its quit events to `quit` (43_frame.md R195). -/
theorem State.sliced_framed_quit {s u : State} (h : s.sliced = some u) :
    u.framed.done.quit = (s.quit || s.nextDrain.contains .quit) := by
  simp [State.sliced_quit h, State.sliced_nextDrain h]

/-- No effect but FRAME's touches `quit`. -/
theorem effect_quit_of_ne_frame {i : Instr} (hi : i ≠ .frame) {s t : State} (h : effect i s = .next t) :
    t.quit = s.quit := by
  cases i with
  | frame => exact absurd rfl hi
  | write a v => cases h; exact s.writeByte_quit a v
  | keyDown k => cases h; exact s.pressKey_quit k
  | keyUp k => cases h; exact s.releaseKey_quit k
  | redraw => cases h; exact s.redrawn_quit
  | _ => cases h; rfl

/-- FRAME's effect adds the quit events of its drain. -/
theorem effect_frame_quit {s t : State} (h : effect .frame s = .next t) :
    t.quit = (s.quit || s.nextDrain.contains .quit) := by
  obtain ⟨u, hu, rfl⟩ := State.frameEffect_eq_next h
  exact State.sliced_framed_quit hu

theorem exec_quit {i : Instr} {s t : State} (h : exec i s = .next t) : QuitKeptOrDrained s t := by
  obtain ⟨-, ⟨r, rfl⟩ | ⟨-, -, he⟩⟩ := exec_cases h
  · exact .inl rfl
  · by_cases hi : i = .frame
    · subst hi; exact .inr (effect_frame_quit he)
    · exact .inl (effect_quit_of_ne_frame hi he)

theorem step_quit {s t : State} (h : step s = .next t) : QuitKeptOrDrained s t := by
  obtain ⟨-, ⟨w, rest, -, hw⟩ | ⟨-, ho⟩⟩ := step_cases h
  · obtain ⟨i, -, hx⟩ | ⟨e, -, -, rfl⟩ := issueWord_cases hw
    · exact (exec_quit hx :)
    · exact .inl rfl
  · obtain ⟨-, ⟨i, stage, hx⟩ | ⟨-, rfl⟩ | ⟨ok, following, rfl⟩ | ⟨-, rfl⟩⟩ := orchestrate_cases ho
    · exact (exec_quit hx :)
    · exact .inl (bootCheck_quit s)
    · exact .inl (bootSurface_quit ok following s)
    · exact .inl rfl

/-- Settles O45: a step's `quit` is the old one, or that with the quit events of the next drain added. -/
theorem quitIsSetByAQuitEventAloneAndNeverCleared : Obligations.QuitIsSetByAQuitEventAloneAndNeverCleared := by
  unfold Obligations.QuitIsSetByAQuitEventAloneAndNeverCleared
  refine ⟨fun _ _ _ => rfl, fun s u hs hu hq => ⟨_, exec_frame hs hu, ?_⟩, fun s t h => ?_⟩
  · rw [State.sliced_framed_quit hu, List.contains_iff_mem.mpr hq, Bool.or_true]
  · exact ⟨(step_quit h).stays, (step_quit h).mem_nextDrain⟩

end Sys2Proof.Machine
end

section
/-! SUPPORT. The memory bus: the floating-bus filter (20_memory.md R52), the ROM window that no operation but SETUP stores
into (R55), and the rows that stay fixed from one drain to the next (R65). -/

namespace Sys2Proof.Machine

/-! ## The floating-bus filter -/

theorem floatFilter_of_bit_set {b : Byte} (h : b.getLsbD 6 = true) : floatFilter b = b := if_pos h

theorem floatFilter_of_bit_clear {b : Byte} (h : b.getLsbD 6 = false) : floatFilter b = 0x00#8 :=
  if_neg (Bool.eq_false_iff.mp h)

/-- Bit 15 of an address as a bound. -/
theorem addr_bit15_iff (a : Addr) : a.getLsbD 15 = true ↔ 0x8000 ≤ a.toNat := by
  rw [← inFloatWindow_eq]
  simp [inFloatWindow, Config.floatBase, BitVec.le_def]

/-- Bit 6 of a byte as two ranges (30_encoding.md R93). -/
theorem byte_bit6_iff (b : Byte) : b.getLsbD 6 = true ↔
    (0x40 ≤ b.toNat ∧ b.toNat ≤ 0x7F) ∨ (0xC0 ≤ b.toNat ∧ b.toNat ≤ 0xFF) := by
  have hb : b.toNat < 256 := b.isLt
  rw [← BitVec.testBit_toNat, Nat.testBit_eq_decide_div_mod_eq, decide_eq_true_iff]
  omega

/-- Settles O11, by the two sides of 0x8000 and, above it, the two values of bit 6. -/
theorem fetchIsFilteredInTheFloatingWindowOnly : Obligations.FetchIsFilteredInTheFloatingWindowOnly := by
  unfold Obligations.FetchIsFilteredInTheFloatingWindowOnly
  intro s a hs
  refine ⟨fun hlow => ?_, fun hhigh => ⟨fun hset => ?_, fun hclear => ?_⟩, exec_read hs a, addr_bit15_iff a, byte_bit6_iff⟩
  · rw [exec_fetch hs, State.fetchByte_low s a hlow]; rfl
  · rw [exec_fetch hs, State.fetchByte_high s a hhigh, Config.floatMask, floatFilter_of_bit_set hset]; rfl
  · rw [exec_fetch hs, State.fetchByte_high s a hhigh, Config.floatMask, floatFilter_of_bit_clear hclear]; rfl

/-! ## The ROM window -/

theorem State.writeByte_of_lt {s : State} {a : Addr} {v : Byte} (h : a.toNat < 0x4000) : s.writeByte a v = s :=
  if_pos ((inRomWindow_iff a).mpr h)

/-- A WRITE anywhere leaves the cells below 0x4000 as they were. -/
theorem State.readByte_writeByte_rom {s : State} {a b : Addr} {v : Byte} (hb : b.toNat < 0x4000) :
    (s.writeByte a v).mem.readByte b = s.mem.readByte b := by
  rw [State.readByte_writeByte, if_neg]
  rintro ⟨rfl, ha⟩
  omega

@[simp] theorem State.framed_mem (u : State) : u.framed.mem = u.mem := by simp [State.framed]

/-- A slice stores by WRITE alone. -/
theorem State.sliced_keeps_rom {s u : State} (h : s.sliced = some u) {a : Addr} (ha : a.toNat < 0x4000) :
    u.mem.readByte a = s.mem.readByte a :=
  slice_mem_induction (P := fun m => m.readByte a = s.mem.readByte a)
    (fun _ _ _ hm => (State.readByte_writeByte_rom ha).trans hm) h (by rw [State.started_mem])

/-- The operations but SETUP that store, WRITE and FRAME, do it by WRITE (20_memory.md R55); the others keep memory. -/
theorem effect_keeps_rom {i : Instr} (hi : i ≠ .setup) {s t : State} (h : effect i s = .next t) {a : Addr}
    (ha : a.toNat < 0x4000) : t.mem.readByte a = s.mem.readByte a := by
  cases i with
  | setup => exact absurd rfl hi
  | write b v => cases h; exact State.readByte_writeByte_rom ha
  | frame =>
    obtain ⟨u, hu, rfl⟩ := State.frameEffect_eq_next h
    rw [State.done_mem, State.framed_mem]
    exact State.sliced_keeps_rom hu ha
  | keyDown k => cases h; rw [State.done_mem, State.pressKey_mem]
  | keyUp k => cases h; rw [State.done_mem, State.releaseKey_mem]
  | redraw => cases h; rw [State.done_mem, State.redrawn_mem]
  | _ => cases h; rfl

theorem exec_keeps_rom {i : Instr} (hi : i ≠ .setup) {s t : State} (h : exec i s = .next t) {a : Addr}
    (ha : a.toNat < 0x4000) : t.mem.readByte a = s.mem.readByte a := by
  obtain ⟨-, ⟨r, rfl⟩ | ⟨-, -, he⟩⟩ := exec_cases h
  · rfl
  · exact effect_keeps_rom hi he ha

/-- Settles O12: WRITE by the two sides of 0x4000, and every other store is SETUP's or a WRITE of the slice. -/
theorem onlySetupStoresIntoTheRomWindow : Obligations.OnlySetupStoresIntoTheRomWindow := by
  unfold Obligations.OnlySetupStoresIntoTheRomWindow
  refine ⟨fun s a v hs => ⟨fun ha => ?_, fun ha => ⟨_, exec_write hs a v, ?_, fun b => ?_⟩,
    ⟨_, exec_read hs a⟩, ⟨_, exec_fetch hs a⟩⟩, fun s t i hi h a ha => exec_keeps_rom hi h ha⟩
  · rw [exec_write hs, State.writeByte_of_lt ha]; rfl
  · rw [State.writeByte_frame]; rfl
  · simpa [ha] using s.readByte_writeByte a b v

/-! ## The rows of a slice -/

/-- PORT_IN answers from the rows and the configuration alone (41_keyboard.md R140, R141). -/
theorem State.portInByte_congr {s t : State} (hrows : s.rows = t.rows) (hcfg : s.cfg = t.cfg) (p : Addr) :
    s.portInByte p = t.portInByte p := by
  simp only [State.portInByte, State.keyboardRead, State.row, hrows, hcfg]

theorem slice_rows {n : Nat} {s u : State} (h : slice n s = some u) : u.rows = s.rows := by rw [slice_frame h]

theorem slice_cfg {n : Nat} {s u : State} (h : slice n s = some u) : u.cfg = s.cfg := by rw [slice_frame h]

/-- After its drain a FRAME changes no row. -/
@[simp] theorem State.framed_rows (u : State) : u.framed.rows = u.drained.rows := u.drained.frameEnd_rows

/-- Settles O42: a slice keeps rows and configuration, and so do the end of a frame and the start of the next. -/
theorem rowsAreFixedDuringASlice : Obligations.RowsAreFixedDuringASlice := by
  unfold Obligations.RowsAreFixedDuringASlice
  refine ⟨fun n s u p h => ⟨slice_rows h, State.portInByte_congr (slice_rows h) (slice_cfg h) p⟩,
    fun s u hs hu => ⟨_, exec_frame hs hu, u.framed_rows, fun p => ?_⟩⟩
  apply State.portInByte_congr
  · rw [State.started_rows, State.done_rows, State.framed_rows]
  · rw [State.started_cfg, State.done_cfg, State.framed_cfg, State.drained_cfg]

end Sys2Proof.Machine
end

section
/-! SUPPORT. The display-file pointer (30_encoding.md R91). -/

namespace Sys2Proof.Machine

/-- The model's `{hi, lo}` is the little-endian value of R91, written with the operators of bit vectors. -/
theorem pointerOf_eq_or_shiftLeft (lo hi : Byte) : pointerOf lo hi = lo.setWidth 16 ||| (hi.setWidth 16 <<< 8) := by
  rw [pointerOf, BitVec.append_def, BitVec.shiftLeftZeroExtend_eq, BitVec.setWidth'_eq, BitVec.or_comm]

/-- Settles O33, by the shape of `pointerOf` and what REDRAW leaves on the screen. -/
theorem displayPointerIsLittleEndian : Obligations.DisplayPointerIsLittleEndian := by
  unfold Obligations.DisplayPointerIsLittleEndian
  intro s p hs hp
  have hptr : s.displayPointer = p := (pointerOf_eq_or_shiftLeft _ _).trans hp.symm
  refine ⟨hptr, _, exec_redraw hs, ?_⟩
  rw [State.done_screen, State.redrawn_screen, hptr]

end Sys2Proof.Machine
end

section
/-! SUPPORT. The keyboard (41_keyboard.md): the reported outcome, all that PORT_OUT leaves, is read by no operation (R142);
and the matrix positions of a key as one mask per row, which KEY_DOWN clears and KEY_UP sets (R143, R144). -/

namespace Sys2Proof.Machine

/-! ## No operation reads the reported outcome -/

theorem State.sliced_last_only (s : State) (x : Report) :
    State.sliced { s with last := x } = s.sliced.map fun u => { u with last := x } := by
  have hstart : State.started { s with last := x } = { s.started with last := x } := by
    unfold State.started; split <;> rfl
  rw [State.sliced, hstart, slice_last_only]; rfl

theorem State.drained_last_only (s : State) (x : Report) :
    State.drained { s with last := x } = { s.drained with last := x } :=
  drainEvents_last_only _ { s with host := { s.host with state := s.host.drain.next } } x

theorem State.framed_done_last_only (s : State) (x : Report) :
    (State.framed { s with last := x }).done = s.framed.done := by
  simp only [State.framed, State.drained_last_only, State.frameEnd]
  split <;> rfl

theorem State.frameEffect_last_only (s : State) (x : Report) :
    State.frameEffect { s with last := x } = s.frameEffect := by
  simp only [State.frameEffect, State.sliced_last_only]
  cases s.sliced with
  | none => rfl
  | some u => exact congrArg Host.Outcome.next (u.framed_done_last_only x)

theorem effect_last_only (i : Instr) (s : State) (x : Report) : effect i { s with last := x } = effect i s := by
  cases i with
  | write a v => simp only [effect, State.writeByte_last_only]; rfl
  | keyDown k => simp only [effect, State.pressKey_last_only]; rfl
  | keyUp k => simp only [effect, State.releaseKey_last_only]; rfl
  | frame => exact s.frameEffect_last_only x
  | _ => rfl

theorem ownCheck_last_only (i : Instr) (s : State) (x : Report) : ownCheck i { s with last := x } = ownCheck i s := by
  cases i <;> rfl

/-- Every operation ends alike whatever the operation before it reported (log 9). -/
theorem exec_last_only (i : Instr) (s : State) (x : Report) : exec i { s with last := x } = exec i s := by
  rw [exec_eq_operateTo, exec_eq_operateTo, effect_last_only, ownCheck_last_only]
  rfl

/-- Settles O21: PORT_OUT changes the reported outcome alone, which no operation reads. -/
theorem portOutIsANoOpNoOperationSees : Obligations.PortOutIsANoOpNoOperationSees := by
  unfold Obligations.PortOutIsANoOpNoOperationSees
  exact fun s p v hs => ⟨rfl, _, exec_portOut hs p v, rfl, fun i => exec_last_only i s .done⟩

/-! ## The scan-code byte -/

/-- A row's number as R143 and R144 write it, `encoded >> 5`. -/
theorem eq_scanRow_iff (r : Fin 8) (e : Byte) : r = scanRow e ↔ r.val = (e >>> 5).toNat := by
  have hv : (scanRow e).val = (e >>> 5).toNat := by
    have he : e.toNat < 256 := e.isLt
    simp [scanRow, Nat.shiftRight_eq_div_pow]
    omega
  rw [Fin.ext_iff, hv]

/-- A byte of column bits alone has none of the bits 7..5. -/
theorem getLsbD_of_and_colMask {m : Byte} (hm : m &&& Config.colMask = m) {j : Nat} (hj : 5 ≤ j) :
    m.getLsbD j = false := by
  have hcol : Config.colMask.getLsbD j = false :=
    Nat.testBit_lt_two_pow (Nat.lt_of_lt_of_le (by decide : 0x1F < 2 ^ 5) (Nat.pow_le_pow_right (by decide) hj))
  rw [← hm, BitVec.getLsbD_and, hcol, Bool.and_false]

/-! ## The positions of a key in the matrix -/

/-- The column bits of key `k` in row `r`: bit 0 of rows 0 and 4 for the delete key (41_keyboard.md R146), those of its
scan-code byte for a mapped key, none for an unmapped one. -/
def keyMask (cfg : Config) (k : HostKey) (r : Fin 8) : Byte :=
  if k = cfg.deleteKey then if r = 0 ∨ r = 4 then 0x01#8 else 0x00#8
  else
    match keymapEntry cfg k with
    | none => 0x00#8
    | some e => if r = scanRow e then scanMask e else 0x00#8

theorem keyMask_delete {cfg : Config} {k : HostKey} (hk : k = cfg.deleteKey) (r : Fin 8) :
    keyMask cfg k r = if r = 0 ∨ r = 4 then 0x01#8 else 0x00#8 := if_pos hk

theorem keyMask_unmapped {cfg : Config} {k : HostKey} (hk : k ≠ cfg.deleteKey) (he : keymapEntry cfg k = none)
    (r : Fin 8) : keyMask cfg k r = 0x00#8 := by
  rw [keyMask, if_neg hk, he]

theorem keyMask_mapped {cfg : Config} {k : HostKey} {e : Byte} (hk : k ≠ cfg.deleteKey)
    (he : keymapEntry cfg k = some e) (r : Fin 8) :
    keyMask cfg k r = if r.val = (e >>> 5).toNat then e &&& 0x1F#8 else 0x00#8 := by
  rw [keyMask, if_neg hk, he]
  simp only [eq_scanRow_iff, scanMask, Config.colMask]

/-- A key has column bits alone (10_state.md R23). -/
theorem keyMask_and_colMask (cfg : Config) (k : HostKey) (r : Fin 8) :
    keyMask cfg k r &&& Config.colMask = keyMask cfg k r := by
  by_cases hk : k = cfg.deleteKey
  · rw [keyMask_delete hk]
    split <;> rfl
  · cases he : keymapEntry cfg k with
    | none => rw [keyMask_unmapped hk he]; rfl
    | some e =>
      rw [keyMask_mapped hk he]
      split
      · rw [Config.colMask, BitVec.and_assoc, BitVec.and_self]
      · rfl

theorem byte_and_not_zero (b : Byte) : b &&& ~~~0x00#8 = b := BitVec.and_allOnes

/-- KEY_DOWN clears the key's bits in every row. -/
theorem State.row_pressKey (s : State) (k : HostKey) (r : Fin 8) :
    (s.pressKey k).row r = s.row r &&& ~~~keyMask s.cfg k r := by
  by_cases hk : k = s.cfg.deleteKey
  · rw [keyMask_delete hk, State.pressKey, if_pos hk]
    by_cases h₀ : r = 0
    · subst h₀; simp [State.row_pressBits]
    · by_cases h₄ : r = 4
      · subst h₄; simp [State.row_pressBits]
      · rw [if_neg (not_or.mpr ⟨h₀, h₄⟩), byte_and_not_zero]
        simp [State.row_pressBits, Ne.symm h₀, Ne.symm h₄]
  · rw [State.pressKey, if_neg hk, keyMask, if_neg hk]
    cases keymapEntry s.cfg k with
    | none => exact (byte_and_not_zero _).symm
    | some e =>
      by_cases hr : r = scanRow e
      · simp [State.row_pressBits, hr]
      · simp only [State.row_pressBits, if_neg hr, if_neg (Ne.symm hr), byte_and_not_zero]

/-- KEY_UP sets the key's bits in every row. -/
theorem State.row_releaseKey (s : State) (k : HostKey) (r : Fin 8) :
    (s.releaseKey k).row r = s.row r ||| keyMask s.cfg k r := by
  by_cases hk : k = s.cfg.deleteKey
  · rw [keyMask_delete hk, State.releaseKey, if_pos hk]
    by_cases h₀ : r = 0
    · subst h₀; simp [State.row_releaseBits]
    · by_cases h₄ : r = 4
      · subst h₄; simp [State.row_releaseBits]
      · simp [State.row_releaseBits, h₀, h₄, Ne.symm h₀, Ne.symm h₄]
  · rw [State.releaseKey, if_neg hk, keyMask, if_neg hk]
    cases keymapEntry s.cfg k with
    | none => exact BitVec.or_zero.symm
    | some e =>
      by_cases hr : r = scanRow e
      · simp [State.row_releaseBits, hr]
      · simp [State.row_releaseBits, hr, Ne.symm hr]

theorem State.rows_ext {s t : State} (h : ∀ r, s.row r = t.row r) : s.rows = t.rows :=
  Vector.ext fun i hi => h ⟨i, hi⟩

/-- Settles O22: every row loses the key's bits in it, which are those of the three kinds of key. -/
theorem keyDownClearsTheKeysBits : Obligations.KeyDownClearsTheKeysBits := by
  unfold Obligations.KeyDownClearsTheKeysBits
  intro s k hs
  have hrow : ∀ r : Fin 8, (s.pressKey k).done.rows[r] = s.rows[r] &&& ~~~keyMask s.cfg k r := s.row_pressKey k
  refine ⟨rfl, _, exec_keyDown hs k, congrArg State.done (s.pressKey_frame k), fun hk r => ?delete,
    fun hk he => State.rows_ext fun r => (hrow r).trans ?unmapped, fun hk e he r => ?mapped, fun r j hj => ?top⟩
  case delete => rw [hrow, keyMask_delete hk]; split; exacts [rfl, byte_and_not_zero _]
  case unmapped => rw [keyMask_unmapped hk he]; exact byte_and_not_zero _
  case mapped => rw [hrow, keyMask_mapped hk he]; split; exacts [rfl, byte_and_not_zero _]
  case top =>
    have hm := getLsbD_of_and_colMask (keyMask_and_colMask s.cfg k r) hj
    have hlt : s.rows[r].getLsbD j = true → j < 8 := BitVec.lt_of_getLsbD
    rw [hrow, BitVec.getLsbD_and, BitVec.getLsbD_not, hm]
    simpa using hlt

/-- Settles O23: every row gains the key's bits in it, which are those of the three kinds of key. -/
theorem keyUpSetsTheKeysBits : Obligations.KeyUpSetsTheKeysBits := by
  unfold Obligations.KeyUpSetsTheKeysBits
  intro s k hs
  have hrow : ∀ r : Fin 8, (s.releaseKey k).done.rows[r] = s.rows[r] ||| keyMask s.cfg k r := s.row_releaseKey k
  refine ⟨rfl, _, exec_keyUp hs k, congrArg State.done (s.releaseKey_frame k), fun hk r => ?delete,
    fun hk he => State.rows_ext fun r => (hrow r).trans ?unmapped, fun hk e he r => ?mapped, fun r j hj => ?top⟩
  case delete => rw [hrow, keyMask_delete hk]; split; exacts [rfl, BitVec.or_zero]
  case unmapped => rw [keyMask_unmapped hk he]; exact BitVec.or_zero
  case mapped => rw [hrow, keyMask_mapped hk he]; split; exacts [rfl, BitVec.or_zero]
  case top =>
    have hm := getLsbD_of_and_colMask (keyMask_and_colMask s.cfg k r) hj
    rw [hrow, BitVec.getLsbD_or, hm, Bool.or_false]

/-! ## KB_RESET -/

theorem State.Ready.releaseAll_done {s : State} (h : s.Ready) : s.releaseAll.done.Ready :=
  ⟨h.noFault, h.config, h.live⟩

/-- A byte that holds every column bit absorbs any of them. -/
theorem or_eq_left_of_colMask {b m : Byte} (hb : b &&& Config.colMask = Config.colMask)
    (hm : m &&& Config.colMask = m) : b ||| m = b := by
  have hbm : m &&& b = m := by
    rw [← hm, BitVec.and_assoc, BitVec.and_comm _ b, hb]
  rw [← hbm]
  ext i hi
  simp

/-- KEY_UP changes nothing where every row holds every column bit: no key is down (41_keyboard.md R145). -/
theorem State.releaseKey_of_released {s : State} (h : ∀ r, s.row r &&& Config.colMask = Config.colMask) (k : HostKey) :
    s.releaseKey k = s := by
  have hrows : (s.releaseKey k).rows = s.rows := State.rows_ext fun r =>
    (s.row_releaseKey k r).trans (or_eq_left_of_colMask (h r) (keyMask_and_colMask s.cfg k r))
  rw [State.releaseKey_frame, hrows]

/-- Settles O24: after KB_RESET every row holds `ROW_RESET`, which a second one writes again and no KEY_UP adds to. -/
theorem kbResetReleasesEveryKey : Obligations.KbResetReleasesEveryKey := by
  unfold Obligations.KbResetReleasesEveryKey
  intro s hs
  refine ⟨rfl, _, exec_kbReset hs, rfl, s.row_releaseAll, exec_kbReset hs.releaseAll_done, fun hcol k => ?_⟩
  have hreleased : ∀ r, s.releaseAll.done.row r &&& Config.colMask = Config.colMask := fun r =>
    (congrArg (· &&& Config.colMask) (s.row_releaseAll r)).trans hcol
  rw [exec_keyUp hs.releaseAll_done, State.releaseKey_of_released hreleased]
  rfl

end Sys2Proof.Machine
end

section
/-! SUPPORT. The glyph atlas (42_glyph_atlas.md): the pixels of a cell and the cells of the atlas, by their place. -/

namespace Sys2Proof.Machine

/-- Place `n` of a doubled list holds element `n / 2`. -/
theorem getElem?_double {α : Type} (l : List α) (n : Nat) : (double l)[n]? = l[n / 2]? := by
  induction l generalizing n with
  | nil => rfl
  | cons a l ih =>
    have hcons : double (a :: l) = a :: a :: double l := rfl
    match n with
    | 0 | 1 => rfl
    | n + 2 =>
      rw [hcons, Nat.add_div_right n Nat.two_pos]
      exact ih n

theorem getElem_double {α : Type} (l : List α) (n : Nat) (h : n < (double l).length) :
    (double l)[n] = l[n / 2]'(by rw [length_double] at h; omega) := by
  apply Option.some.inj
  rw [← List.getElem?_eq_getElem, ← List.getElem?_eq_getElem, getElem?_double]

theorem expandByte_getElem (ink paper : Pixel) (b : Byte) (n : Nat) (h : n < 16) :
    (expandByte ink paper b)[n] = if b.getLsbD (7 - n / 2) then ink else paper := by
  simp [expandByte, getElem_double]

theorem glyphCell_getElem (cfg : Config) (ink paper : Pixel) (g n : Nat) (h : n < 16) :
    (glyphCell cfg ink paper g)[n] = expandByte ink paper (glyphByte cfg g (n / 2)) := by
  simp [glyphCell, getElem_double]

/-- A source pixel of a glyph is the 2 by 2 block of its cell (R170). -/
theorem imagePixel_glyphCell (cfg : Config) (ink paper : Pixel) (g : Nat) {r x dy dx : Nat}
    (hr : r < 8) (hx : x < 8) (hdy : dy < 2) (hdx : dx < 2) :
    imagePixel (glyphCell cfg ink paper g) (2 * r + dy) (2 * x + dx) =
      if (glyphByte cfg g r).getLsbD (7 - x) then ink else paper := by
  have hrow : (2 * r + dy) % 16 / 2 = r := by omega
  have hcol : (2 * x + dx) % 16 / 2 = x := by omega
  rw [imagePixel, glyphCell_getElem, expandByte_getElem, hrow, hcol]

/-- Cell `g` of the atlas is the normal cell of glyph `g`. -/
theorem atlasPixel_buildAtlas_normal (cfg : Config) {g : Nat} (hg : g < 64) (y x : Nat) :
    atlasPixel (buildAtlas cfg) g y x = imagePixel (glyphCell cfg .fg .bg g) y x := by
  have hmod : g % 128 = g := by omega
  simp [atlasPixel, buildAtlas, hmod, List.getElem_append_left, hg]

/-- Cell `g + 64` of the atlas is the inverted cell of glyph `g`. -/
theorem atlasPixel_buildAtlas_inverted (cfg : Config) {g : Nat} (hg : g < 64) (y x : Nat) :
    atlasPixel (buildAtlas cfg) (g + 64) y x = imagePixel (glyphCell cfg .bg .fg g) y x := by
  have hmod : (g + 64) % 128 = g + 64 := by omega
  simp [atlasPixel, buildAtlas, hmod, List.getElem_append_right]

/-- Settles O28: every cell of the atlas is a glyph's, and a source pixel of a glyph is a 2 by 2 block of its cell. -/
theorem atlasBuildExpandsEveryGlyph : Obligations.AtlasBuildExpandsEveryGlyph := by
  unfold Obligations.AtlasBuildExpandsEveryGlyph
  intro s hs
  refine ⟨rfl, _, exec_atlasBuild hs, rfl, fun g r x dy dx hg hr hx hdy hdx b hb => ⟨?normal, ?inverted⟩⟩
  case normal =>
    rw [atlasPixel_buildAtlas_normal s.cfg hg, imagePixel_glyphCell s.cfg _ _ g hr hx hdy hdx, hb, glyphByte]
  case inverted =>
    rw [atlasPixel_buildAtlas_inverted s.cfg hg, imagePixel_glyphCell s.cfg _ _ g hr hx hdy hdx, hb, glyphByte]

end Sys2Proof.Machine
end

section
/-! SUPPORT. The frame (43_frame.md): a display file anywhere in the address space (R206), and how a FRAME ends after its
drain (R197). -/

namespace Sys2Proof.Machine

/-! ## The display file -/

/-- Addresses of codes wrap past 0xFFFF (43_frame.md R206). -/
theorem codeAddr_toNat (p off : Addr) (row col : Nat) :
    (codeAddr (p + off) row col).toNat = (p.toNat + off.toNat + (33 * row + col)) % 0x10000 := by
  simp [codeAddr, Config.dfStride]

/-- Settles O34, by the cell lemma of the walk and the address of a code as a natural number. -/
theorem anyDisplayPointerIsValid : Obligations.AnyDisplayPointerIsValid := by
  unfold Obligations.AnyDisplayPointerIsValid
  intro s hs
  refine ⟨_, exec_redraw hs, ?_, fun row col hrow hcol a ha => ?_⟩
  · rw [State.done_fault, State.redrawn_fault, hs.noFault]
  · have hcode : codeAddr (s.displayPointer + s.cfg.rowBaseOffset) row col = a :=
      BitVec.eq_of_toNat_eq ((codeAddr_toNat _ _ row col).trans ha.symm)
    rw [State.done_screen, State.redrawn_screen, walk_cell _ _ _ _ _ row col hrow hcol, displayCode, hcode]

/-! ## The end of a FRAME -/

/-- A quit seen in the drain ends the run (43_frame.md R198). -/
theorem State.frameEnd_of_quit {s : State} (h : s.quit = true) : s.frameEnd = { s with phase := .quit } := if_pos h

/-- With no quit seen in the drain, a frame ends with the redraw (43_frame.md R197). -/
theorem State.frameEnd_of_not_quit {s : State} (h : s.quit = false) : s.frameEnd = s.redrawn :=
  if_neg (Bool.eq_false_iff.mp h)

/-- Init and Running are both phases that last, so the start of a FRAME ends no run. -/
@[simp] theorem State.started_isTerminal (s : State) : s.started.phase.isTerminal = s.phase.isTerminal := by
  unfold State.started
  split
  · next h => rw [h]; rfl
  · rfl

/-- Where FRAME runs, REDRAW runs in the state that its drain leaves. -/
theorem State.DrawReady.drained_of_sliced {s u : State} (hs : s.DrawReady) (hu : s.sliced = some u) :
    u.drained.DrawReady where
  noFault := by rw [State.drained_fault, State.sliced_fault hu, hs.noFault]
  config := by rw [State.drained_cfg, State.sliced_cfg hu, hs.config]
  live := by rw [State.drained_phase, State.sliced_phase hu, State.started_isTerminal, hs.live]
  memorySet := by rw [State.drained_setupDone, State.sliced_setupDone hu, hs.memorySet]
  atlasSet := by rw [State.drained_atlasBuilt, State.sliced_atlasBuilt hu, hs.atlasSet]

/-- Settles O40, by the two values of `quit` after the drain. -/
theorem frameRedrawsOnlyIfNotQuitting : Obligations.FrameRedrawsOnlyIfNotQuitting := by
  unfold Obligations.FrameRedrawsOnlyIfNotQuitting
  intro s u hs hu
  have hquit : u.framed.done.quit = u.drained.quit := u.drained.frameEnd_quit
  refine ⟨_, exec_frame hs hu, hquit, fun h => ?quits, fun h => ?redraws⟩
  case quits =>
    rw [State.framed, State.frameEnd_of_quit (hquit.symm.trans h)]
    exact ⟨u.drained_screen.trans (State.sliced_screen hu), u.drained_presented.trans (State.sliced_presented hu)⟩
  case redraws =>
    rw [State.framed, State.frameEnd_of_not_quit (hquit.symm.trans h)]
    refine ⟨exec_redraw (hs.drained_of_sliced hu), ?_⟩
    rw [State.done_presented, State.redrawn_presented, State.drained_presented, State.sliced_presented hu,
      State.done_screen]

end Sys2Proof.Machine
end

section
/-! SUPPORT. Unmapped host keys (60_exceptions.md R234). -/

namespace Sys2Proof.Machine

/-- A press of a key that is neither the delete key nor mapped reaches no row. -/
theorem State.pressKey_unmapped {s : State} {k : HostKey} (hk : k ≠ s.cfg.deleteKey)
    (he : keymapEntry s.cfg k = none) : s.pressKey k = s := by
  rw [State.pressKey, if_neg hk, he]

/-- A release of a key that is neither the delete key nor mapped reaches no row. -/
theorem State.releaseKey_unmapped {s : State} {k : HostKey} (hk : k ≠ s.cfg.deleteKey)
    (he : keymapEntry s.cfg k = none) : s.releaseKey k = s := by
  rw [State.releaseKey, if_neg hk, he]

/-- Settles O25: KEY_DOWN and KEY_UP complete from a Ready state, and an unmapped key's press and release are the
identity. -/
theorem unmappedHostKeysAreIgnored : Obligations.UnmappedHostKeysAreIgnored := by
  unfold Obligations.UnmappedHostKeysAreIgnored
  intro s k hs hk he
  constructor
  · rw [exec_keyDown hs, State.pressKey_unmapped hk he, State.done]
  · rw [exec_keyUp hs, State.releaseKey_unmapped hk he, State.done]

end Sys2Proof.Machine
end

section
/-! SUPPORT. The transaction word (30_encoding.md section 1): a word is its four fields, and what the decoder asks of
each. -/

namespace Sys2Proof.Laws

/-- Settles O1, by the fields of an encoded word. -/
theorem decodeEncodeRoundTrip : Obligations.DecodeEncodeRoundTrip := by
  unfold Obligations.DecodeEncodeRoundTrip
  intro i
  cases i <;> simp [encode, decode, requireZero]

/-- A word is its four fields (R80). -/
theorem fields_append (w : Word) : opField w ++ rsvField w ++ aField w ++ dField w = w := by
  have h₁ : opField w ++ rsvField w = w.extractLsb' 24 8 := BitVec.extractLsb'_append_extractLsb'_eq_extractLsb' rfl
  have h₂ : w.extractLsb' 24 8 ++ aField w = w.extractLsb' 8 24 :=
    BitVec.extractLsb'_append_extractLsb'_eq_extractLsb' rfl
  have h₃ : w.extractLsb' 8 24 ++ dField w = w.extractLsb' 0 32 :=
    BitVec.extractLsb'_append_extractLsb'_eq_extractLsb' rfl
  rw [h₁, h₂, h₃, BitVec.extractLsb'_eq_self]

theorem wordOf_fields {w : Word} (h : rsvField w = 0#4) : wordOf (opField w) (aField w) (dField w) = w := by
  rw [wordOf, ← h, fields_append]

@[simp] theorem requireZero_eq_ok {b : Bool} {i j : Instr} : requireZero b i = .ok j ↔ b = true ∧ i = j := by
  cases b <;> simp [requireZero]

@[simp] theorem requireZero_eq_error {b : Bool} {i : Instr} {e : DecodeError} :
    requireZero b i = .error e ↔ b = false ∧ e = .reservedBits := by
  cases b <;> simp [requireZero, eq_comm]

/-- A word that decodes holds 0 in RSV, and the fields of what it decodes to in the others. -/
theorem fields_of_decode {w : Word} {i : Instr} (h : decode w = .ok i) :
    rsvField w = 0#4 ∧ encode i = wordOf (opField w) (aField w) (dField w) := by
  have hop := BitVec.ofNat_toNat 4 (opField w)
  simp only [decode] at h
  split at h
  case h_13 => cases h
  all_goals
    next hn =>
    rw [hn, BitVec.setWidth_eq] at hop
    simp only [requireZero_eq_ok, Bool.and_eq_true, beq_iff_eq] at h
    obtain ⟨hzero, rfl⟩ := h
    simp [encode, ← hop, hzero]

/-- Settles O2: a word is its fields, and those of a word that decodes are those of its operation. -/
theorem encodeDecodeRoundTrip : Obligations.EncodeDecodeRoundTrip := by
  unfold Obligations.EncodeDecodeRoundTrip
  intro w i h
  obtain ⟨hrsv, henc⟩ := fields_of_decode h
  rw [henc, wordOf_fields hrsv]

/-- Settles O3, by the value of OP. -/
theorem decodeRefusesExactlyTheReservedWords : Obligations.DecodeRefusesExactlyTheReservedWords := by
  unfold Obligations.DecodeRefusesExactlyTheReservedWords
  intro w
  simp only [decode]
  split
  case h_13 =>
    have hop : 12 ≤ (opField w).toNat := by grind
    simp [hop]
  all_goals
    next hop =>
    simp [hop, imp_iff_not_or, or_assoc]

/-- Settles O4, each word by evaluation. -/
theorem writtenWordsDecodeAsTheSpecSays : Obligations.WrittenWordsDecodeAsTheSpecSays := by
  unfold Obligations.WrittenWordsDecodeAsTheSpecSays
  decide

end Sys2Proof.Laws
end

section
/-! SUPPORT. The checks of 60_exceptions.md R237 in their order: the sticky fault, the words that spell no operation,
the common refusals, an operation's own check; and the configurations that pass (R238). -/

namespace Sys2Proof.Machine

/-- From a faulted state no operation has a next state (R233). -/
theorem exec_of_fault {s : State} {r : StopRecord} (h : s.fault = some r) (i : Instr) :
    exec i s = .fault (.sticky r.reason) := by
  simp only [exec_eq_operateTo, operateTo, h]

theorem step_of_fault {s : State} {r : StopRecord} (h : s.fault = some r) : step s = .fault (.sticky r.reason) := by
  simp only [step, h]

theorem step_of_noFault {s : State} (h : s.fault = none) : step s = advance s := by
  simp only [step, h]

/-- A step runs the oldest pending word (log 10). -/
theorem step_of_pending {s : State} {w : Word} {rest : List Word} (hf : s.fault = none) (hp : s.pending = w :: rest) :
    step s = issueWord w { s with pending := rest } := by
  simp only [step_of_noFault hf, advance, hp]

theorem issueWord_of_ok {w : Word} {i : Instr} (h : decode w = .ok i) (s : State) : issueWord w s = exec i s := by
  simp only [issueWord, h]

theorem issueWord_of_error {w : Word} {e : DecodeError} (h : decode w = .error e) {s : State} (hf : s.fault = none) :
    issueWord w s =
      .next (s.raise (.refused (if configOk s.cfg then refusalOf e else .badConfig)) (some w)) := by
  simp only [issueWord, h, refuseWord, hf]

@[simp] theorem tableWord_toNat (w : Word) : tableWord 32 w.toNat = w := by
  rw [tableWord, Nat.mod_eq_of_lt w.isLt, BitVec.ofNat_toNat, BitVec.setWidth_eq]

/-- Settles O5: the oldest pending word is decoded and run, and the encoding of an operation decodes to it. -/
theorem stepRunsTheDecodedWord : Obligations.StepRunsTheDecodedWord := by
  unfold Obligations.StepRunsTheDecodedWord
  refine ⟨fun s w rest i hf hp hw => ?_, fun s i hf => ?_⟩
  · rw [step_of_pending hf hp, issueWord_of_ok hw]
  · rw [State.withFetchWord, tableWord_toNat, step_of_pending (s := s.issueNext (encode i)) hf rfl,
      issueWord_of_ok (Laws.decodeEncodeRoundTrip i)]
    rfl

/-- Settles O6, by what issuing a word that does not decode leaves. -/
theorem stepRefusesAWordThatSpellsNoOperation : Obligations.StepRefusesAWordThatSpellsNoOperation := by
  unfold Obligations.StepRefusesAWordThatSpellsNoOperation
  intro s w rest e hf hp he
  exact (step_of_pending hf hp).trans (issueWord_of_error he hf)

/-- A common refusal comes before an operation's own check. -/
theorem exec_of_commonRefusal {s : State} {r : RefusedReason} (hf : s.fault = none) (hr : s.commonRefusal = some r)
    (i : Instr) : exec i s = .next (s.raise (.refused r) (some (encode i))) := by
  simp only [exec_eq_operateTo, operateTo, hf, hr]

theorem State.commonRefusal_of_badConfig {s : State} (h : configOk s.cfg = false) :
    s.commonRefusal = some .badConfig := by
  simp [State.commonRefusal, h]

theorem State.commonRefusal_of_terminal {s : State} (hc : configOk s.cfg = true) (hp : s.phase.isTerminal = true) :
    s.commonRefusal = some .terminal := by
  simp [State.commonRefusal, hc, hp]

theorem Phase.isTerminal_iff (p : Phase) : p.isTerminal = true ↔ p = .quit ∨ p = .failed := by
  cases p <;> simp [Phase.isTerminal]

/-- Settles O7, by the two common refusals in their order. -/
theorem commonChecksComeFirst : Obligations.CommonChecksComeFirst := by
  unfold Obligations.CommonChecksComeFirst
  refine fun i s hf => ⟨fun hc => ?_, fun hc hp => ?_⟩
  · exact exec_of_commonRefusal hf (State.commonRefusal_of_badConfig hc) i
  · exact exec_of_commonRefusal hf (State.commonRefusal_of_terminal hc ((Phase.isTerminal_iff _).mpr hp)) i

/-- Settles O8: step and every operation look at `fault` first. -/
theorem aFaultedStateHasNoStep : Obligations.AFaultedStateHasNoStep := by
  unfold Obligations.AFaultedStateHasNoStep
  exact fun s r h => ⟨step_of_fault h, exec_of_fault h⟩

/-- In a ready state an operation's own check is what stops it. -/
theorem exec_of_ownCheck {s : State} {r : Stop} {i : Instr} (hs : s.Ready) (hr : ownCheck i s = some r) :
    exec i s = .next (s.raise r (some (encode i))) := by
  simp only [exec_eq_operateTo, operateTo, hs.noFault, hs.commonRefusal, hr]

theorem State.setupCheck_of_not_setupDone {s : State} (h : s.setupDone = false) :
    s.setupCheck = some (.fault .beforeSetup) := by
  simp [State.setupCheck, h]

theorem State.drawCheck_of_not_setupDone {s : State} (h : s.setupDone = false) :
    s.drawCheck = some (.fault .beforeSetup) := by
  simp [State.drawCheck, h]

theorem State.drawCheck_of_not_atlasBuilt {s : State} (h : s.setupDone = true) (hb : s.atlasBuilt = false) :
    s.drawCheck = some (.fault .atlasNotBuilt) := by
  simp [State.drawCheck, h, hb]

theorem State.repeatCheck_of_setupDone {s : State} (h : s.setupDone = true) :
    s.repeatCheck = some (.refused .repeatedSetup) := by
  simp [State.repeatCheck, h]

/-- Settles O9, by the own checks of the five operations. -/
theorem operationsBeforeTheirStateIsSetFault : Obligations.OperationsBeforeTheirStateIsSetFault := by
  unfold Obligations.OperationsBeforeTheirStateIsSetFault
  refine fun s a v hs => ⟨fun hset i hi => exec_of_ownCheck hs ?_, fun hset hbuilt i hi => exec_of_ownCheck hs ?_⟩
  · have hbus := State.setupCheck_of_not_setupDone hset
    have hdraw := State.drawCheck_of_not_setupDone hset
    simp only [List.mem_cons, List.not_mem_nil, or_false] at hi
    rcases hi with rfl | rfl | rfl | rfl | rfl
    exacts [hbus, hbus, hbus, hdraw, hdraw]
  · have hdraw := State.drawCheck_of_not_atlasBuilt hset hbuilt
    simp only [List.mem_cons, List.not_mem_nil, or_false] at hi
    rcases hi with rfl | rfl
    exacts [hdraw, hdraw]

/-- Settles O18, by SETUP's own check. -/
theorem setupAfterSetupIsRefused : Obligations.SetupAfterSetupIsRefused := by
  unfold Obligations.SetupAfterSetupIsRefused
  exact fun s hs => exec_of_ownCheck (i := .setup) hs.toReady (State.repeatCheck_of_setupDone hs.memorySet)

/-! ## Accepted configurations (R238) -/

theorem romImageOk_iff (cfg : Config) : romImageOk cfg = true ↔ cfg.romImage.size = 8192 := beq_iff_eq

theorem charsetOk_iff (cfg : Config) : charsetOk cfg = true ↔ cfg.charsetBase.toNat + 0x200 ≤ 0x2000 :=
  decide_eq_true_iff

theorem romPatchOk_iff (cfg : Config) : romPatchOk cfg = true ↔
    ∃ (o₁ o₂ : Addr) (v₁ v₂ : Byte), cfg.romPatch = [(o₁, v₁), (o₂, v₂)] ∧
      o₁ ≠ o₂ ∧ o₁.toNat ≤ 0x1FFF ∧ o₂.toNat ≤ 0x1FFF := by
  constructor
  · intro h
    unfold romPatchOk at h
    split at h
    case h_1 o₁ v₁ o₂ v₂ hp =>
      simp only [Bool.and_eq_true, decide_eq_true_eq, bne_iff_ne] at h
      obtain ⟨⟨h₁, h₂⟩, hne⟩ := h
      exact ⟨o₁, o₂, v₁, v₂, hp, hne, Nat.le_of_lt_succ h₁, Nat.le_of_lt_succ h₂⟩
    case h_2 => cases h
  · rintro ⟨o₁, o₂, v₁, v₂, hp, hne, h₁, h₂⟩
    simp [romPatchOk, hp, hne, Config.romSize, Nat.lt_succ_of_le h₁, Nat.lt_succ_of_le h₂]

/-- One column bit, as a list of masks and as a bit number (41_keyboard.md R147). -/
theorem isOneHot_iff (e : Byte) :
    isOneHot e = true ↔ ∃ c : Nat, c < 5 ∧ ∀ j : Nat, j < 5 → (e.getLsbD j = true ↔ j = c) := by
  revert e; decide +kernel

theorem keymapOk_iff (cfg : Config) :
    keymapOk cfg = true ↔ ∀ (k : HostKey) (e : Byte), keymapEntry cfg k = some e → isOneHot e = true := by
  simp only [keymapOk, List.all_eq_true, Option.all_eq_true]
  constructor
  · intro h k e he
    obtain ⟨pre, post, hmap, -⟩ := List.lookup_eq_some_iff.mp he
    exact h (k, e) (hmap ▸ List.mem_append_right _ List.mem_cons_self) e he
  · exact fun h entry _ e he => h entry.1 e he

/-- Settles O10, condition by condition. -/
theorem acceptedConfigurationsMeetEveryCondition : Obligations.AcceptedConfigurationsMeetEveryCondition := by
  unfold Obligations.AcceptedConfigurationsMeetEveryCondition
  intro cfg
  simp only [configOk, Bool.and_eq_true, romImageOk_iff, romPatchOk_iff, charsetOk_iff, keymapOk_iff, isOneHot_iff,
    and_assoc]

end Sys2Proof.Machine
end

section
/-! SUPPORT. The memory bus: a READ or FETCH after a WRITE (40_bus.md R117, 20_memory.md R66), what no FETCH sees (R53),
memory as SETUP leaves it (40_bus.md R113, R114), and memories as data (log 5). -/

namespace Sys2Proof.Machine

/-! ## Reads after a WRITE -/

/-- After a WRITE the bus operations still run. -/
theorem State.BusReady.writeByte_done {s : State} (h : s.BusReady) (a : Addr) (v : Byte) :
    (s.writeByte a v).done.BusReady where
  noFault := by rw [State.done_fault, State.writeByte_fault, h.noFault]
  config := by rw [State.done_cfg, State.writeByte_cfg, h.config]
  live := by rw [State.done_phase, State.writeByte_phase, h.live]
  memorySet := by rw [State.done_setupDone, State.writeByte_setupDone, h.memorySet]

theorem State.writeByte_done_mem (s : State) (a : Addr) (v : Byte) :
    (s.writeByte a v).done.mem = (s.writeByte a v).mem := rfl

/-- A byte written in RAM reads back. -/
theorem State.readByte_writeByte_ram {s : State} {a : Addr} {v : Byte} (h : 0x4000 ≤ a.toNat) :
    (s.writeByte a v).mem.readByte a = v := by
  rw [State.readByte_writeByte, if_pos ⟨rfl, h⟩]

/-- Settles O13, by the two sides of 0x4000. -/
theorem readAfterWriteGivesTheByteOnlyInRam : Obligations.ReadAfterWriteGivesTheByteOnlyInRam := by
  unfold Obligations.ReadAfterWriteGivesTheByteOnlyInRam
  intro s a v hs
  refine ⟨_, exec_write hs a v, ?_⟩
  have hread : (s.writeByte a v).mem.readByte a = if a.toNat < 0x4000 then s.mem.readByte a else v := by
    split
    · next h => exact State.readByte_writeByte_rom h
    · next h => exact State.readByte_writeByte_ram (Nat.le_of_not_lt h)
  rw [exec_read (hs.writeByte_done a v), ← hread]
  rfl

theorem addr_bit15_eq_false_iff {a : Addr} : a.getLsbD 15 = false ↔ a.toNat < 0x8000 := by
  rw [← Bool.not_eq_true, addr_bit15_iff, Nat.not_le]

/-- FETCH answers from the cells below 0x8000 (20_memory.md R53). -/
theorem State.fetchByte_congr {s t : State} (h : ∀ a : Addr, a.toNat < 0x8000 → s.mem.readByte a = t.mem.readByte a)
    (a : Addr) : s.fetchByte a = t.fetchByte a := by
  cases h15 : a.getLsbD 15 with
  | false =>
    rw [s.fetchByte_low a h15, t.fetchByte_low a h15, h a (addr_bit15_eq_false_iff.mp h15)]
  | true =>
    have hmask : (a &&& Config.floatMask).toNat < 0x8000 := by
      rw [BitVec.toNat_and]
      exact Nat.lt_succ_of_le Nat.and_le_right
    rw [s.fetchByte_high a h15, t.fetchByte_high a h15, h _ hmask]

/-- Settles O15: FETCH answers alike in both states. -/
theorem upperMemoryIsNeverFetched : Obligations.UpperMemoryIsNeverFetched := by
  unfold Obligations.UpperMemoryIsNeverFetched
  intro s₁ s₂ h₁ h₂ hmem a
  refine ⟨_, exec_fetch h₁ a, ?_⟩
  rw [exec_fetch h₂ a, State.fetchByte_congr hmem a]
  rfl

/-- The two addresses a cell of low RAM is fetched at (20_memory.md R52). -/
theorem or_floatBase {a : Addr} (h : a.toNat < 0x8000) :
    (a ||| 0x8000#16).getLsbD 15 = true ∧ (a ||| 0x8000#16) &&& Config.floatMask = a := by
  have h15 := addr_bit15_eq_false_iff.mpr h
  refine ⟨by rw [BitVec.getLsbD_or]; simp, BitVec.eq_of_getLsbD_eq fun i hi => ?_⟩
  rw [Config.floatMask, BitVec.getLsbD_and, BitVec.getLsbD_or]
  by_cases hi15 : i = 15
  · subst hi15
    rw [h15]
    rfl
  · have hlt : i < 15 := by omega
    interval_cases i <;> simp

/-- Settles O14, by the three ranges of R66. -/
theorem fetchSeesWritesToLowRamOnly : Obligations.FetchSeesWritesToLowRamOnly := by
  unfold Obligations.FetchSeesWritesToLowRamOnly
  intro s a v hs
  have ht := hs.writeByte_done a v
  refine ⟨fun hram hlow => ⟨_, exec_write hs a v, ?fetch, ?float⟩,
    fun hhigh => ⟨_, exec_write hs a v, ?read, fun b => ⟨_, exec_fetch ht b, ?unseen⟩⟩,
    fun hrom => ⟨_, exec_write hs a v, fun b => ⟨_, _, exec_fetch ht b, ?romFetch, exec_read ht b, ?romRead⟩⟩⟩
  case fetch =>
    rw [exec_fetch ht, State.fetchByte_low _ a (addr_bit15_eq_false_iff.mpr hlow), State.writeByte_done_mem,
      State.readByte_writeByte_ram hram]
    rfl
  case float =>
    obtain ⟨h15, hmask⟩ := or_floatBase hlow
    rw [exec_fetch ht, State.fetchByte_high _ _ h15, State.writeByte_done_mem, hmask, State.readByte_writeByte_ram hram]
    rfl
  case read =>
    rw [exec_read ht, State.readByte, State.writeByte_done_mem, State.readByte_writeByte_ram (by omega)]
    rfl
  case unseen =>
    have hsame : s.fetchByte b = (s.writeByte a v).done.fetchByte b := State.fetchByte_congr (fun c hc => by
      rw [State.writeByte_done_mem, State.readByte_writeByte, if_neg]
      rintro ⟨rfl, -⟩
      omega) b
    rw [exec_fetch hs, hsame]
    rfl
  case romFetch => rw [exec_fetch hs, State.writeByte_of_lt hrom]; rfl
  case romRead => rw [exec_read hs, State.writeByte_of_lt hrom]; rfl

/-- Settles O16: each changes the reported outcome alone, which no operation reads. -/
theorem readingOperationsChangeNothingAndRepeat : Obligations.ReadingOperationsChangeNothingAndRepeat := by
  unfold Obligations.ReadingOperationsChangeNothingAndRepeat
  intro s a hs i hi
  have hrun : ∃ v, exec i s = .next { s with last := .value v } := by
    simp only [List.mem_cons, List.not_mem_nil, or_false] at hi
    rcases hi with rfl | rfl | rfl
    exacts [⟨_, exec_fetch hs a⟩, ⟨_, exec_read hs a⟩, ⟨_, exec_portIn hs.toReady a⟩]
  obtain ⟨v, hv⟩ := hrun
  exact ⟨v, hv, (exec_last_only i s (.value v)).trans hv⟩

/-! ## SETUP -/

/-- Memory in which both ROM windows hold `f` and all RAM holds 0x00. -/
structure RomHolds (m : Memory) (f : Addr → Byte) : Prop where
  primary : ∀ o : Addr, o.toNat < Config.romSize → m.readByte o = f o
  ghost : ∀ o : Addr, o.toNat < Config.romSize → m.readByte (o + Config.ghostOffset) = f o
  ram : ∀ a : Addr, 0x4000 ≤ a.toNat → m.readByte a = Memory.unlisted

theorem RomHolds.nil : RomHolds [] fun _ => Memory.unlisted := ⟨fun _ _ => rfl, fun _ _ => rfl, fun _ _ => rfl⟩

theorem ghost_toNat {o : Addr} (h : o.toNat < Config.romSize) :
    (o + Config.ghostOffset).toNat = o.toNat + 0x2000 := by
  simp only [Config.romSize] at h
  simp only [Config.ghostOffset, BitVec.toNat_add, BitVec.toNat_ofNat]
  omega

/-- A store of a ROM byte and its ghost is one of one byte of both windows. -/
theorem RomHolds.writeBoth {m : Memory} {f : Addr → Byte} (h : RomHolds m f) {o : Addr} (ho : o.toNat < Config.romSize)
    (v : Byte) : RomHolds (m.writeBoth o v) (Function.update f o v) := by
  have hg := ghost_toNat ho
  simp only [Config.romSize] at ho
  refine ⟨fun b hb => ?_, fun b hb => ?_, fun a ha => ?_⟩
  · have hne : b ≠ o + Config.ghostOffset := by
      rintro rfl
      simp only [Config.romSize] at hb
      omega
    simp only [Memory.readByte_writeBoth, hne, false_or, h.primary b hb, Function.update_apply]
  · have hb' := ghost_toNat hb
    have hne : b + Config.ghostOffset ≠ o := by rintro rfl; omega
    simp only [Memory.readByte_writeBoth, hne, or_false, h.ghost b hb, Function.update_apply, add_left_inj]
  · have hne : ¬ (a = o + Config.ghostOffset ∨ a = o) := by rintro (rfl | rfl) <;> omega
    rw [Memory.readByte_writeBoth, if_neg hne, h.ram a ha]

theorem RomHolds.congr {m : Memory} {f g : Addr → Byte} (h : RomHolds m f)
    (hfg : ∀ o : Addr, o.toNat < Config.romSize → f o = g o) : RomHolds m g :=
  ⟨fun o ho => (h.primary o ho).trans (hfg o ho), fun o ho => (h.ghost o ho).trans (hfg o ho), h.ram⟩

/-- One step of the copy of R113: a listed byte of the image `g` goes into both windows. -/
theorem RomHolds.copyByte {m : Memory} {f : Addr → Byte} (h : RomHolds m f) (g : Addr → Byte) (c : Addr × Byte) :
    RomHolds (if c.1.toNat < Config.romSize then m.writeBoth c.1 (g c.1) else m) (Function.update f c.1 (g c.1)) := by
  split
  · next hc => exact h.writeBoth hc _
  · next hc => exact h.congr fun o ho => (Function.update_of_ne (by rintro rfl; exact hc ho) _ _).symm

/-- Copying the listed bytes of an image `g` leaves its byte at every listed offset. -/
theorem RomHolds.copy (g : Addr → Byte) (l : List (Addr × Byte)) : ∀ {m : Memory} {f : Addr → Byte}, RomHolds m f →
    RomHolds (l.foldl (fun m c => if c.1.toNat < Config.romSize then m.writeBoth c.1 (g c.1) else m) m)
      (fun o => if o ∈ l.map Prod.fst then g o else f o) := by
  induction l with
  | nil => intro m f h; simpa using h
  | cons c l ih =>
    intro m f h
    refine (ih (h.copyByte g c)).congr fun o _ => ?_
    by_cases ho : o = c.1 <;> simp [ho]

theorem romCopy_holds (cfg : Config) : RomHolds (romCopy cfg) (romByte cfg) := by
  refine (RomHolds.nil.copy (romByte cfg) cfg.romImage.bytes).congr fun o _ => ?_
  split
  · rfl
  · next h =>
    have hnone : cfg.romImage.bytes.lookup o = none := List.lookup_eq_none_iff.mpr fun p hp => by
      rw [bne_iff_ne]
      rintro rfl
      exact h (List.mem_map_of_mem hp)
    rw [romByte, hnone]
    rfl

theorem lookup_entry (p : Addr × Byte) (l : List (Addr × Byte)) (o : Addr) :
    List.lookup o (p :: l) = if o = p.1 then some p.2 else List.lookup o l := by
  rw [List.lookup_cons]
  by_cases h : o = p.1
  · simp [h]
  · simp [h, beq_eq_false_iff_ne.mpr h]

/-- Memory right after SETUP: the patched image in both windows and 0x00 in RAM (R113, R114). -/
theorem setupMemory_holds {cfg : Config} (h : configOk cfg = true) : RomHolds (setupMemory cfg) (patchedRom cfg) := by
  have hpatch : romPatchOk cfg = true := by
    simp only [configOk, Bool.and_eq_true] at h
    exact h.1.1.2
  obtain ⟨o₁, o₂, v₁, v₂, hp, hne, h₁, h₂⟩ := (romPatchOk_iff cfg).mp hpatch
  have hmem : setupMemory cfg = ((romCopy cfg).writeBoth o₁ v₁).writeBoth o₂ v₂ := by rw [setupMemory, hp]; rfl
  rw [hmem]
  refine (((romCopy_holds cfg).writeBoth (Nat.lt_succ_of_le h₁) v₁).writeBoth (Nat.lt_succ_of_le h₂) v₂).congr
    fun o _ => ?_
  rw [patchedRom, hp, lookup_entry, lookup_entry, Function.update_apply, Function.update_apply]
  by_cases ho₁ : o = o₁
  · subst ho₁; simp [hne]
  · by_cases ho₂ : o = o₂
    · subst ho₂; simp [ho₁]
    · simp [ho₁, ho₂]

/-- Settles O17, by memory right after SETUP. -/
theorem setupFillsBothRomWindowsAndZeroesRam : Obligations.SetupFillsBothRomWindowsAndZeroesRam := by
  unfold Obligations.SetupFillsBothRomWindowsAndZeroesRam
  intro s hs hset
  have hrom := setupMemory_holds hs.config
  refine ⟨_, exec_setup hs hset, rfl, fun o ho b hb => ⟨?_, ?_⟩, hrom.ram⟩
  · exact (hrom.primary o ho).trans hb.symm
  · exact (hrom.ghost o ho).trans hb.symm

/-- Settles O19: both windows hold the patched image. -/
theorem ghostReadsAsThePrimaryRom : Obligations.GhostReadsAsThePrimaryRom := by
  unfold Obligations.GhostReadsAsThePrimaryRom
  intro s a hs hinv ha
  obtain ⟨hprimary, hghost⟩ := hinv.rom hs.memorySet a ha
  refine ⟨_, exec_read hs a, ?_⟩
  rw [exec_read hs, State.readByte, State.readByte, hprimary]
  exact congrArg (fun b => Host.Outcome.next (s.answer b)) hghost

/-! ## Memories as data -/

/-- The cells a canonical memory lists are those that read as another byte than an unlisted one. -/
theorem Memory.mem_iff {m : Memory} (h : m.wf = true) (c : Host.Cell) :
    c ∈ m ↔ c.1 < Config.memSize ∧ c.2 ≠ Memory.unlisted ∧ m.readByte (BitVec.ofNat 16 c.1) = c.2 := by
  have hread (hlt : c.1 < Config.memSize) : m.readByte (BitVec.ofNat 16 c.1) = (m.lookup c.1).getD Memory.unlisted := by
    rw [Memory.readByte, BitVec.toNat_ofNat, Nat.mod_eq_of_lt (show c.1 < 2 ^ 16 from hlt)]
  constructor
  · intro hc
    obtain ⟨hlt, hne⟩ := ((Memory.wf_iff m).mp h).2 c hc
    exact ⟨hlt, hne, by rw [hread hlt, m.lookup_of_mem h c hc]; rfl⟩
  · rintro ⟨hlt, hne, hc⟩
    rw [hread hlt] at hc
    cases hl : m.lookup c.1 with
    | none => rw [hl] at hc; exact absurd hc.symm hne
    | some v =>
      rw [hl] at hc
      obtain ⟨pre, post, hm, -⟩ := List.lookup_eq_some_iff.mp hl
      subst hc
      exact hm ▸ List.mem_append_right _ List.mem_cons_self

/-- Settles O55: the bytes read decide which cells are listed, and the addresses rise. -/
theorem canonicalMemoriesThatReadAlikeAreEqual : Obligations.CanonicalMemoriesThatReadAlikeAreEqual := by
  unfold Obligations.CanonicalMemoriesThatReadAlikeAreEqual
  intro m₁ m₂ h₁ h₂ hread
  have hirrefl : Std.Irrefl fun c d : Host.Cell => c.1 < d.1 := ⟨fun c => Nat.lt_irrefl c.1⟩
  refine ((Memory.wf_iff m₁).mp h₁).1.eq_of_mem_iff ((Memory.wf_iff m₂).mp h₂).1 fun c => ?_
  rw [Memory.mem_iff h₁, Memory.mem_iff h₂, hread]

end Sys2Proof.Machine
end

section
/-! SUPPORT. What an operation and a step can change (10_state.md). -/

namespace Sys2Proof.Machine

/-! ## Which operations change which state -/

/-- The states that operation `i` is not one of those to change are kept from `s` to `t` (R21 to R31). -/
structure ChangesItsStates (i : Instr) (s t : State) : Prop where
  cfg : t.cfg = s.cfg
  pending : t.pending = s.pending
  stage : t.stage = s.stage
  mem : (∀ a v, i ≠ .write a v) → i ≠ .setup → i ≠ .frame → t.mem = s.mem
  rows : (∀ k, i ≠ .keyDown k) → (∀ k, i ≠ .keyUp k) → i ≠ .kbReset → i ≠ .frame → t.rows = s.rows
  setupDone : i ≠ .setup → t.setupDone = s.setupDone
  atlas : i ≠ .atlasBuild → t.atlas = s.atlas ∧ t.atlasBuilt = s.atlasBuilt
  screen : i ≠ .redraw → i ≠ .frame → t.screen = s.screen ∧ t.presented = s.presented
  run : i ≠ .frame → t.phase = s.phase ∧ t.quit = s.quit ∧ t.engine = s.engine ∧ t.host = s.host

theorem effect_changesItsStates {i : Instr} {s t : State} (h : effect i s = .next t) : ChangesItsStates i s t := by
  cases i with
  | frame =>
    obtain ⟨u, hu, rfl⟩ := State.frameEffect_eq_next h
    constructor <;>
      simp [State.sliced_cfg hu, State.sliced_pending hu, State.sliced_stage hu, State.sliced_setupDone hu,
        State.sliced_atlas hu, State.sliced_atlasBuilt hu]
  | _ => cases h; constructor <;> simp

theorem exec_changesItsStates {i : Instr} {s t : State} (h : exec i s = .next t) : ChangesItsStates i s t := by
  obtain ⟨-, ⟨r, rfl⟩ | ⟨-, -, he⟩⟩ := exec_cases h
  · constructor <;> simp
  · exact effect_changesItsStates he

/-- Settles O48: an operation's check changes none of these states, and its effect its own alone. -/
theorem eachStateIsChangedByItsOperationsAlone : Obligations.EachStateIsChangedByItsOperationsAlone := by
  unfold Obligations.EachStateIsChangedByItsOperationsAlone
  intro i s t h
  obtain ⟨hcfg, hpending, hstage, hmem, hrows, hsetup, hatlas, hscreen, hrun⟩ := exec_changesItsStates h
  exact ⟨hcfg, hpending, hstage, hmem, hrows, hsetup, hatlas, hscreen, hrun⟩

/-! ## The end of a FRAME -/

theorem State.commonRefusal_eq_none {s : State} :
    s.commonRefusal = none ↔ configOk s.cfg = true ∧ s.phase.isTerminal = false := by
  unfold State.commonRefusal
  cases configOk s.cfg <;> cases s.phase.isTerminal <;> simp

/-- A FRAME that runs is in phase Running (43_frame.md R190). -/
theorem State.started_of_live {s : State} (h : s.phase.isTerminal = false) :
    s.started = { s with phase := .running } := by
  unfold State.started
  split
  · rfl
  · next hi =>
    have hp : s.phase = .running := by
      cases hp : s.phase <;> simp_all [Phase.isTerminal]
    rw [← hp]

theorem State.framed_of_quit {u : State} (h : u.drained.quit = true) : u.framed = { u.drained with phase := .quit } :=
  State.frameEnd_of_quit h

theorem State.framed_of_not_quit {u : State} (h : u.drained.quit = false) : u.framed = u.drained.redrawn :=
  State.frameEnd_of_not_quit h

theorem State.sliced_phase_of_live {s u : State} (hu : s.sliced = some u) (h : s.phase.isTerminal = false) :
    u.phase = .running := by
  rw [State.sliced_phase hu, State.started_of_live h]

/-! ## What a step never undoes -/

/-- What no operation and no step takes back (10_state.md R20, R22, R27, R29 to R31). -/
structure Advances (s t : State) : Prop where
  cfg : t.cfg = s.cfg
  setupDone : s.setupDone = true → t.setupDone = true
  atlasBuilt : s.atlasBuilt = true → t.atlasBuilt = true
  quit : s.quit = true → t.quit = true
  phaseQuit : s.phase = .quit → t.phase = .quit
  phaseFailed : s.phase = .failed → t.phase = .failed
  phaseRunning : s.phase = .running → t.phase ≠ .init
  presented : ∃ frames, t.presented = s.presented ++ frames ∧ frames.length ≤ 1

/-- FRAME ends in phase Running with one more frame, or in phase Quit with none. -/
theorem State.framed_advances {s u : State} (hu : s.sliced = some u) (hp : s.phase.isTerminal = false) :
    Advances s u.framed.done where
  cfg := by simp [State.sliced_cfg hu]
  setupDone := by simp [State.sliced_setupDone hu]
  atlasBuilt := by simp [State.sliced_atlasBuilt hu]
  quit := fun h => by rw [State.sliced_framed_quit hu, h, Bool.true_or]
  phaseQuit := fun h => by simp [h, Phase.isTerminal] at hp
  phaseFailed := fun h => by simp [h, Phase.isTerminal] at hp
  phaseRunning := fun _ => by
    cases hq : u.drained.quit with
    | true => simp [State.framed_of_quit hq]
    | false => simp [State.framed_of_not_quit hq, State.sliced_phase_of_live hu hp]
  presented := by
    cases hq : u.drained.quit with
    | true => exact ⟨[], by simp [State.framed_of_quit hq, State.sliced_presented hu], by simp⟩
    | false => exact ⟨[u.framed.screen], by simp [State.framed_of_not_quit hq, State.sliced_presented hu], by simp⟩

/-- The phase and `quit` are kept, and so the rest of what can be undone. -/
theorem Advances.of_phase {s t : State} (hpresented : ∃ frames, t.presented = s.presented ++ frames ∧ frames.length ≤ 1)
    (hcfg : t.cfg = s.cfg) (hset : s.setupDone = true → t.setupDone = true)
    (hbuilt : s.atlasBuilt = true → t.atlasBuilt = true) (hquit : t.quit = s.quit) (hphase : t.phase = s.phase) :
    Advances s t where
  cfg := hcfg
  setupDone := hset
  atlasBuilt := hbuilt
  quit := hquit.trans
  phaseQuit := hphase.trans
  phaseFailed := hphase.trans
  phaseRunning := fun h => by simp [hphase, h]
  presented := hpresented

theorem effect_advances {i : Instr} {s t : State} (hp : s.phase.isTerminal = false) (h : effect i s = .next t) :
    Advances s t := by
  cases i with
  | frame =>
    obtain ⟨u, hu, rfl⟩ := State.frameEffect_eq_next h
    exact State.framed_advances hu hp
  | redraw => cases h; apply Advances.of_phase ⟨[s.redrawn.screen], by simp, by simp⟩ <;> simp
  | _ => cases h; apply Advances.of_phase ⟨[], by simp, by simp⟩ <;> simp

theorem Advances.raise (s : State) (r : Stop) (w : Option Word) : Advances s (s.raise r w) :=
  .of_phase ⟨[], by simp, by simp⟩ rfl id id rfl rfl

theorem exec_advances {i : Instr} {s t : State} (h : exec i s = .next t) : Advances s t := by
  obtain ⟨-, ⟨r, rfl⟩ | ⟨hr, -, he⟩⟩ := exec_cases h
  · exact .raise s r _
  · exact effect_advances (State.commonRefusal_eq_none.mp hr).2 he

/-- Taking a word off the list and going on in boot undo nothing (log 10, log 11). -/
theorem Advances.of_bookkeeping {s t : State} {pending : List Word} {stage : BootStage}
    (h : Advances { s with pending := pending, stage := stage } t) : Advances s t :=
  ⟨h.cfg, h.setupDone, h.atlasBuilt, h.quit, h.phaseQuit, h.phaseFailed, h.phaseRunning, h.presented⟩

theorem bootCheck_advances (s : State) : Advances s (bootCheck s) := by
  unfold bootCheck
  split
  · exact .of_phase ⟨[], by simp, by simp⟩ rfl id id rfl rfl
  · exact .raise s _ _

/-- Boot fails only in a run that has not ended. -/
theorem bootSurface_advances (ok : Bool) (following : BootStage) {s : State} (hp : s.phase.isTerminal = false) :
    Advances s (bootSurface ok following s) := by
  cases ok with
  | true => exact .of_phase ⟨[], by simp [bootSurface], by simp⟩ rfl id id rfl rfl
  | false =>
    have hquit : s.phase ≠ .quit := fun h => by simp [h, Phase.isTerminal] at hp
    constructor <;> simp [bootSurface, hquit]

theorem step_advances {s t : State} (h : step s = .next t) : Advances s t := by
  obtain ⟨-, ⟨w, rest, -, hw⟩ | ⟨-, ho⟩⟩ := step_cases h
  · obtain ⟨i, -, hx⟩ | ⟨e, -, -, rfl⟩ := issueWord_cases hw
    · exact .of_bookkeeping (exec_advances hx)
    · exact .of_bookkeeping (.raise _ _ _)
  · obtain ⟨hp, ⟨i, stage, hx⟩ | ⟨-, rfl⟩ | ⟨ok, following, rfl⟩ | ⟨-, rfl⟩⟩ := orchestrate_cases ho
    · exact .of_bookkeeping (exec_advances hx)
    · exact bootCheck_advances s
    · exact bootSurface_advances ok following hp
    · exact .of_phase ⟨[], by simp, by simp⟩ rfl id id rfl rfl

/-- Settles O49: a step starts without a fault, and undoes nothing. -/
theorem stepsNeverGoBack : Obligations.StepsNeverGoBack := by
  unfold Obligations.StepsNeverGoBack
  intro s t h
  obtain ⟨hcfg, hset, hbuilt, hquit, hphaseQuit, hphaseFailed, hphaseRunning, hpresented⟩ := step_advances h
  exact ⟨(step_cases h).1, hcfg, hset, hbuilt, hquit, hphaseQuit, hphaseFailed, hphaseRunning, hpresented⟩

end Sys2Proof.Machine
end

section
/-! SUPPORT. The invariant of the reachable states (10_state.md sections 3 and 5, 20_memory.md R56), effect by
effect. -/

namespace Sys2Proof.Machine

/-- The invariant speaks of none of these fields. -/
theorem State.Inv.of_bookkeeping {s t : State} (h : s.Inv)
    (ht : t = { s with screen := t.screen, fault := t.fault, engine := t.engine, host := t.host, pending := t.pending,
                       stage := t.stage, last := t.last }) : t.Inv := by
  rw [ht]
  exact ⟨h.memory, h.rom, h.rowTops, h.quitPhase, h.configured, h.atlas, h.frames⟩

/-! ## The effects -/

/-- Both ROM windows lie below 0x4000. -/
theorem State.Inv.of_mem {s : State} (h : s.Inv) {m : Memory} (hwf : m.wf = true)
    (hrom : ∀ a : Addr, a.toNat < 0x4000 → m.readByte a = s.mem.readByte a) : { s with mem := m }.Inv where
  memory := hwf
  rom := fun hset o ho => by
    have hghost := ghost_toNat ho
    obtain ⟨hp, hg⟩ := h.rom hset o ho
    simp only [Config.romSize] at ho
    exact ⟨(hrom o (by omega)).trans hp, (hrom _ (by omega)).trans hg⟩
  rowTops := h.rowTops
  quitPhase := h.quitPhase
  configured := h.configured
  atlas := h.atlas
  frames := h.frames

theorem State.Inv.writeByte {s : State} (h : s.Inv) (a : Addr) (v : Byte) : (s.writeByte a v).Inv := by
  rw [State.writeByte_frame]
  exact h.of_mem (s.writeByte_wf a v h.memory) fun _ hb => State.readByte_writeByte_rom hb

/-- Bits 7..5 of a row (10_state.md R23). -/
def State.rowTop (s : State) (r : Fin 8) : BitVec 3 := (s.row r).extractLsb' 5 3

theorem keyMask_top (cfg : Config) (k : HostKey) (r : Fin 8) : (keyMask cfg k r).extractLsb' 5 3 = 0#3 := by
  rw [← keyMask_and_colMask]
  exact scanMask_top _

@[simp] theorem State.rowTop_pressKey (s : State) (k : HostKey) (r : Fin 8) : (s.pressKey k).rowTop r = s.rowTop r := by
  rw [State.rowTop, State.row_pressKey, top_and_not _ _ (keyMask_top _ _ _), State.rowTop]

@[simp] theorem State.rowTop_releaseKey (s : State) (k : HostKey) (r : Fin 8) :
    (s.releaseKey k).rowTop r = s.rowTop r := by
  rw [State.rowTop, State.row_releaseKey, top_or _ _ (keyMask_top _ _ _), State.rowTop]

theorem drainEvents_rowTop (es : List HostEvent) (s : State) (r : Fin 8) : (drainEvents es s).rowTop r = s.rowTop r :=
  drainEvents_induction (P := fun t => t.rowTop r = s.rowTop r) (fun _ _ h => (State.rowTop_pressKey _ _ r).trans h)
    (fun _ _ h => (State.rowTop_releaseKey _ _ r).trans h) (fun _ h => h) es s rfl

theorem State.Inv.of_rows {s t : State} (h : s.Inv) (ht : t = { s with rows := t.rows })
    (htop : ∀ r : Fin 8, t.rowTop r = s.cfg.rowReset.extractLsb' 5 3) : t.Inv := by
  rw [ht] at htop ⊢
  exact ⟨h.memory, h.rom, htop, h.quitPhase, h.configured, h.atlas, h.frames⟩

/-- SETUP writes memory anew (40_bus.md R113). -/
theorem State.Inv.setup {s : State} (h : s.Inv) (hc : configOk s.cfg = true) :
    { s with mem := setupMemory s.cfg, setupDone := true }.Inv where
  memory := setupMemory_wf s.cfg
  rom := fun _ o ho => ⟨(setupMemory_holds hc).primary o ho, (setupMemory_holds hc).ghost o ho⟩
  rowTops := h.rowTops
  quitPhase := h.quitPhase
  configured := fun _ => hc
  atlas := h.atlas
  frames := fun hf => ⟨rfl, (h.frames hf).2⟩

theorem State.Inv.atlasBuild {s : State} (h : s.Inv) :
    { s with atlas := buildAtlas s.cfg, atlasBuilt := true }.Inv where
  memory := h.memory
  rom := h.rom
  rowTops := h.rowTops
  quitPhase := h.quitPhase
  configured := h.configured
  atlas := fun _ => rfl
  frames := fun hf => ⟨(h.frames hf).1, rfl⟩

theorem State.Inv.present {s : State} (h : s.Inv) (hdraw : s.setupDone = true ∧ s.atlasBuilt = true) :
    s.present.Inv where
  memory := h.memory
  rom := h.rom
  rowTops := h.rowTops
  quitPhase := h.quitPhase
  configured := h.configured
  atlas := h.atlas
  frames := fun _ => hdraw

theorem State.Inv.redrawn {s : State} (h : s.Inv) (hdraw : s.setupDone = true ∧ s.atlasBuilt = true) :
    s.redrawn.Inv := by
  unfold State.redrawn
  exact State.Inv.present (h.of_bookkeeping rfl) hdraw

/-- The slice keeps memory's form and the ROM windows, the drain bits 7..5 of the rows, and the end of the frame sets
phase Quit exactly if `quit` is set. -/
theorem State.Inv.framed {s u : State} (h : s.Inv) (hu : s.sliced = some u) (hp : s.phase.isTerminal = false)
    (hdraw : s.setupDone = true ∧ s.atlasBuilt = true) : u.framed.Inv where
  memory := by
    rw [State.framed_mem]
    exact slice_mem_induction (P := fun m => m.wf = true) (fun s a v => s.writeByte_wf a v) hu (by simpa using h.memory)
  rom := fun _ o ho => by
    have hghost := ghost_toNat ho
    obtain ⟨hprimary, hg⟩ := h.rom hdraw.1 o ho
    simp only [Config.romSize] at ho
    rw [State.framed_mem, State.framed_cfg, State.sliced_cfg hu, State.sliced_keeps_rom hu (by omega),
      State.sliced_keeps_rom hu (by omega)]
    exact ⟨hprimary, hg⟩
  rowTops := fun r => by
    have htop : u.drained.rowTop r = s.rowTop r :=
      (drainEvents_rowTop _ _ r).trans (congrArg (BitVec.extractLsb' 5 3) (State.row_congr (State.sliced_rows hu) r))
    rw [State.framed_cfg, State.sliced_cfg hu, State.row_congr u.framed_rows r]
    exact htop.trans (h.rowTops r)
  quitPhase := by
    cases hq : u.drained.quit with
    | true => simp [State.framed_of_quit hq, hq]
    | false => simp [State.framed_of_not_quit hq, hq, State.sliced_phase_of_live hu hp]
  configured := fun _ => by
    rw [State.framed_cfg, State.sliced_cfg hu]
    exact h.configured hdraw.1
  atlas := fun _ => by
    rw [State.framed_atlas, State.framed_cfg, State.sliced_atlas hu, State.sliced_cfg hu]
    exact h.atlas hdraw.2
  frames := fun _ => by simpa [State.sliced_setupDone hu, State.sliced_atlasBuilt hu] using hdraw

/-! ## Operations and steps -/

theorem State.Inv.done {s : State} (h : s.Inv) : s.done.Inv := h.of_bookkeeping rfl

theorem effect_inv {i : Instr} {s t : State} (h : s.Inv) (hr : s.commonRefusal = none) (hcheck : ownCheck i s = none)
    (he : effect i s = .next t) : t.Inv := by
  obtain ⟨hc, hp⟩ := State.commonRefusal_eq_none.mp hr
  cases i with
  | fetch a => cases he; exact h.of_bookkeeping rfl
  | read a => cases he; exact h.of_bookkeeping rfl
  | portIn p => cases he; exact h.of_bookkeeping rfl
  | portOut p v => cases he; exact h.of_bookkeeping rfl
  | write a v => cases he; exact (h.writeByte a v).done
  | keyDown k =>
    cases he
    exact (h.of_rows (s.pressKey_frame k) fun r => (s.rowTop_pressKey k r).trans (h.rowTops r)).done
  | keyUp k =>
    cases he
    exact (h.of_rows (s.releaseKey_frame k) fun r => (s.rowTop_releaseKey k r).trans (h.rowTops r)).done
  | kbReset =>
    cases he
    exact (h.of_rows (t := s.releaseAll) rfl fun r => congrArg (BitVec.extractLsb' 5 3) (s.row_releaseAll r)).done
  | setup => cases he; exact (h.setup hc).done
  | atlasBuild => cases he; exact h.atlasBuild.done
  | redraw => cases he; exact (h.redrawn (s.drawCheck_eq_none.mp hcheck)).done
  | frame =>
    obtain ⟨u, hu, rfl⟩ := State.frameEffect_eq_next he
    exact (h.framed hu hp (s.drawCheck_eq_none.mp hcheck)).done

theorem exec_inv {i : Instr} {s t : State} (h : s.Inv) (hx : exec i s = .next t) : t.Inv := by
  obtain ⟨-, ⟨r, rfl⟩ | ⟨hr, hcheck, he⟩⟩ := exec_cases hx
  · exact h.of_bookkeeping rfl
  · exact effect_inv h hr hcheck he

theorem bootCheck_inv {s : State} (h : s.Inv) : (bootCheck s).Inv := by
  unfold bootCheck
  split
  · exact h.of_bookkeeping rfl
  · exact h.of_bookkeeping rfl

/-- A boot that fails has met no quit. -/
theorem bootSurface_inv (ok : Bool) (following : BootStage) {s : State} (h : s.Inv) (hp : s.phase.isTerminal = false) :
    (bootSurface ok following s).Inv := by
  cases ok with
  | true => exact h.of_bookkeeping rfl
  | false =>
    have hquit : ¬ s.quit = true := fun hq => by simp [h.quitPhase.mp hq, Phase.isTerminal] at hp
    exact
      { memory := h.memory, rom := h.rom, rowTops := h.rowTops, configured := h.configured, atlas := h.atlas
        quitPhase := ⟨fun hq => absurd hq hquit, nofun⟩
        frames := fun hf => h.frames (hf.imp_right nofun) }

theorem step_inv {s t : State} (h : s.Inv) (hstep : step s = .next t) : t.Inv := by
  obtain ⟨-, ⟨w, rest, -, hw⟩ | ⟨-, ho⟩⟩ := step_cases hstep
  · have hrest : { s with pending := rest }.Inv := h.of_bookkeeping rfl
    obtain ⟨i, -, hx⟩ | ⟨e, -, -, rfl⟩ := issueWord_cases hw
    · exact exec_inv hrest hx
    · exact hrest.of_bookkeeping rfl
  · obtain ⟨hp, ⟨i, stage, hx⟩ | ⟨-, rfl⟩ | ⟨ok, following, rfl⟩ | ⟨-, rfl⟩⟩ := orchestrate_cases ho
    · have hstage : { s with stage := stage }.Inv := h.of_bookkeeping rfl
      exact exec_inv hstage hx
    · exact bootCheck_inv h
    · exact bootSurface_inv ok following h hp
    · exact h.of_bookkeeping rfl

/-- Settles O50: every effect keeps the invariant, and so do the checks, the refusals and boot. -/
theorem invariantKeptByEveryStep : Obligations.InvariantKeptByEveryStep := by
  unfold Obligations.InvariantKeptByEveryStep
  exact fun s t => step_inv

/-! ## Power-on -/

theorem State.powerOn_row (cfg : Config) (engine : EngineAgent) (host : HostAgent) (r : Fin 8) :
    (State.powerOn cfg engine host).row r = cfg.rowReset := by
  simp [State.row, State.powerOn]

theorem State.powerOn_inv (cfg : Config) (engine : EngineAgent) (host : HostAgent) :
    (State.powerOn cfg engine host).Inv where
  memory := Memory.wf_nil
  rom := nofun
  rowTops := fun r => congrArg (BitVec.extractLsb' 5 3) (State.powerOn_row cfg engine host r)
  quitPhase := ⟨nofun, nofun⟩
  configured := nofun
  atlas := nofun
  frames := by
    rintro (h | h | h)
    · exact absurd rfl h
    · cases h
    · cases h

/-- The test configuration after boot meets the invariant, and memory is set up: what O19 asks for is met. -/
theorem ready_inv : Tests.ready.Inv :=
  ((State.powerOn_inv Tests.tc EngineAgent.idle HostAgent.quiet).setup (by decide)).atlasBuild.of_bookkeeping rfl

theorem exists_busReady_inv : ∃ s : State, s.BusReady ∧ s.Inv := ⟨Tests.ready, Tests.ready_busReady, ready_inv⟩

/-- A step from a state that meets the invariant: the first of boot. -/
theorem exists_inv_step : ∃ s t : State, s.Inv ∧ step s = .next t :=
  ⟨Tests.on, _, State.powerOn_inv _ _ _, rfl⟩

/-- Settles O51: at power-on no RAM is set, no atlas built and no frame run. -/
theorem invariantHoldsAtPowerOn : Obligations.InvariantHoldsAtPowerOn := by
  unfold Obligations.InvariantHoldsAtPowerOn
  exact ⟨State.powerOn_inv, State.powerOn_inv _ _ _⟩

/-- Every cell of the screen at power-on is undrawn (10_state.md R28). -/
theorem State.powerOn_cell (cfg : Config) (engine : EngineAgent) (host : HostAgent) (row col : Nat) :
    (State.powerOn cfg engine host).screen.cell row col = .undrawn := by
  simp only [Screen.cell, State.powerOn, Vector.getElem?_replicate]
  split <;> rfl

/-- Settles O52: the fields of power-on, and an undrawn cell's pixels. -/
theorem powerOnHoldsTheResetValues : Obligations.PowerOnHoldsTheResetValues := by
  unfold Obligations.PowerOnHoldsTheResetValues
  rintro cfg engine host s rfl
  refine ⟨rfl, rfl, State.powerOn_row cfg engine host, fun y x _ _ => ?_, rfl, rfl, rfl, rfl⟩
  rw [Screen.pixel, State.powerOn_cell]

end Sys2Proof.Machine
end

section
/-! SUPPORT. The port space (41_keyboard.md, KBD_READ and PORT_IN; 30_encoding.md R84 to R86): the row a port
selects. -/

namespace Sys2Proof.Machine

/-! ## The row a port selects -/

/-- Bit `j` of the row-select byte is bit `8 + j` of the port (R85). -/
theorem rowSelectByte_getLsbD (p : Addr) (j : Fin 8) : (rowSelectByte p).getLsbD j = p.getLsbD (8 + j) := by
  rw [rowSelectByte, BitVec.getLsbD_extractLsb', decide_eq_true j.isLt, Bool.true_and]

theorem rowSelect_eq_find? (sel : Byte) : rowSelect sel = Fin.find? fun i : Fin 8 => !sel.getLsbD i := by
  rw [Fin.find?_eq_find?_finRange]
  rfl

theorem State.keyboardRead_of_row {s : State} {p : Addr} {r : Fin 8} (hr : p.getLsbD (8 + r) = false)
    (hlow : ∀ j : Fin 8, j < r → p.getLsbD (8 + j) = true) : s.keyboardRead p = s.row r := by
  have hsel : rowSelect (rowSelectByte p) = some r := by
    rw [rowSelect_eq_find?, Fin.find?_eq_some_iff]
    simp only [rowSelectByte_getLsbD, hr, Bool.not_false, true_and]
    exact fun j hj => by rw [hlow j hj, Bool.not_true]
  simp only [State.keyboardRead, hsel]

theorem State.keyboardRead_of_no_row {s : State} {p : Addr} (h : ∀ j : Fin 8, p.getLsbD (8 + j) = true) :
    s.keyboardRead p = s.cfg.noRowValue := by
  have hsel : rowSelect (rowSelectByte p) = none := by
    rw [rowSelect_eq_find?, Fin.find?_eq_none_iff]
    exact fun j => by rw [rowSelectByte_getLsbD, h j, Bool.not_true]
  simp only [State.keyboardRead, hsel]

theorem State.portInByte_even {s : State} {p : Addr} (h : p.getLsbD 0 = false) : s.portInByte p = s.keyboardRead p := by
  simp only [State.portInByte, isKeyboardPort, h, Bool.not_false, if_true]

theorem State.portInByte_odd {s : State} {p : Addr} (h : p.getLsbD 0 = true) :
    s.portInByte p = s.cfg.otherPortValue := by
  simp [State.portInByte, isKeyboardPort, h]

/-- Settles O20, by bit 0 of the port and whether it selects a row. -/
theorem keyboardIsTheOnlyDevice : Obligations.KeyboardIsTheOnlyDevice := by
  unfold Obligations.KeyboardIsTheOnlyDevice
  refine ⟨fun s p v hs => ⟨fun heven => ⟨fun r hr hlow => ?row, fun hall => ?noRow⟩, fun hodd => ?other,
    exec_portOut hs p v⟩, fun s a v hs => ⟨exec_read hs a, _, exec_write hs a v, s.writeByte_rows a v⟩⟩
  case row => rw [exec_portIn hs, State.portInByte_even heven, State.keyboardRead_of_row hr hlow]; rfl
  case noRow => rw [exec_portIn hs, State.portInByte_even heven, State.keyboardRead_of_no_row hall]; rfl
  case other => rw [exec_portIn hs, State.portInByte_odd hodd]; rfl

/-! ## SCAN_ROW -/

/-- The port of SCAN_ROW is even and selects its row alone (30_encoding.md R96). -/
theorem scanRowPort_bits : ∀ r : Fin 8, (scanRowPort r).getLsbD 0 = false ∧
    ∀ j : Fin 8, (scanRowPort r).getLsbD (8 + j) = !decide (j = r) := by decide

theorem State.portInByte_scanRowPort (s : State) (r : Fin 8) : s.portInByte (scanRowPort r) = s.row r := by
  obtain ⟨heven, hsel⟩ := scanRowPort_bits r
  rw [State.portInByte_even heven]
  refine State.keyboardRead_of_row (by simp [hsel]) fun j hj => ?_
  rw [hsel, decide_eq_false hj.ne, Bool.not_false]

/-- Settles O27, by the expansion of the line and the row its port selects. -/
theorem scanRowReadsItsRow : Obligations.ScanRowReadsItsRow := by
  unfold Obligations.ScanRowReadsItsRow
  intro s r hs
  refine ⟨.portIn (scanRowPort r), ?_, ?_⟩
  · simp [expandLine, AsmLine.wf, Mnemonic.fields]
  · rw [exec_portIn hs, State.portInByte_scanRowPort]
    rfl

/-- KEY_DOWN leaves a state in which operations run. -/
theorem State.Ready.pressKey_done {s : State} (h : s.Ready) (k : HostKey) : (s.pressKey k).done.Ready where
  noFault := by rw [State.done_fault, State.pressKey_fault, h.noFault]
  config := by rw [State.done_cfg, State.pressKey_cfg, h.config]
  live := by rw [State.done_phase, State.pressKey_phase, h.live]

theorem State.Ready.releaseKey_done {s : State} (h : s.Ready) (k : HostKey) : (s.releaseKey k).done.Ready where
  noFault := by rw [State.done_fault, State.releaseKey_fault, h.noFault]
  config := by rw [State.done_cfg, State.releaseKey_cfg, h.config]
  live := by rw [State.done_phase, State.releaseKey_phase, h.live]

/-- A mapped key's column bits stand in the row of its scan-code byte. -/
theorem keyMask_scanRow {cfg : Config} {k : HostKey} {e : Byte} (hk : k ≠ cfg.deleteKey)
    (he : keymapEntry cfg k = some e) : keyMask cfg k (scanRow e) = scanMask e := by
  rw [keyMask, if_neg hk, he]
  exact if_pos rfl

theorem scanMask_getLsbD {e : Byte} {c : Nat} (hc : c < 5) : (scanMask e).getLsbD c = e.getLsbD c := by
  have hcol : Config.colMask.getLsbD c = true := by interval_cases c <;> rfl
  rw [scanMask, BitVec.getLsbD_and, hcol, Bool.and_true]

/-- Settles O26: KEY_DOWN clears the bit in the row of SCAN_ROW, and KEY_UP sets it there. -/
theorem keyPressAndReleaseAreReadBack : Obligations.KeyPressAndReleaseAreReadBack := by
  unfold Obligations.KeyPressAndReleaseAreReadBack
  intro s k e c hs hk he hc hbit
  have hdown := hs.pressKey_done k
  have hup := hdown.releaseKey_done k
  have hmask : (scanMask e).getLsbD c = true := (scanMask_getLsbD hc).trans hbit
  rw [← (eq_scanRow_iff (scanRow e) e).mp rfl]
  refine ⟨_, _, _, _, exec_keyDown hs k, exec_portIn hdown _, ?pressed, exec_keyUp hdown k, exec_portIn hup _,
    ?released⟩
  case pressed =>
    rw [State.portInByte_scanRowPort]
    show ((s.pressKey k).row (scanRow e)).getLsbD c = false
    rw [State.row_pressKey, keyMask_scanRow hk he, BitVec.getLsbD_and, BitVec.getLsbD_not, hmask]
    simp
  case released =>
    rw [State.portInByte_scanRowPort]
    show (((s.pressKey k).done.releaseKey k).row (scanRow e)).getLsbD c = true
    rw [State.row_releaseKey, State.done_cfg, State.pressKey_cfg, keyMask_scanRow hk he, BitVec.getLsbD_or, hmask,
      Bool.or_true]

end Sys2Proof.Machine
end

section
/-! SUPPORT. The atlas on its surface (42_glyph_atlas.md R172 to R176), what a code draws (43_frame.md R201, R202), and
the walk as the loop of R200. -/

namespace Sys2Proof.Machine

/-! ## The atlas -/

/-- The builder reads the image and the place of the character set alone (R176). -/
theorem buildAtlas_congr {cfg cfg' : Config} (hrom : cfg.romImage = cfg'.romImage)
    (hbase : cfg.charsetBase = cfg'.charsetBase) : buildAtlas cfg = buildAtlas cfg' := by
  have hcell (ink paper : Pixel) : glyphCell cfg ink paper = glyphCell cfg' ink paper := by
    funext g
    simp only [glyphCell, glyphByte, romByte, hrom, hbase]
  simp only [buildAtlas, hcell]

/-- Settles O29: the builder reads the image and the character set's place, which a build keeps. -/
theorem atlasBuildDependsOnTheRomImageAlone : Obligations.AtlasBuildDependsOnTheRomImageAlone := by
  unfold Obligations.AtlasBuildDependsOnTheRomImageAlone
  intro s₁ s₂ h₁ h₂ hrom hbase
  exact ⟨_, _, exec_atlasBuild h₁, exec_atlasBuild h₂, buildAtlas_congr hrom hbase,
    exec_atlasBuild ⟨h₁.noFault, h₁.config, h₁.live⟩⟩

/-- The inverted cell of a glyph is the normal one, every pixel inverted (R172). -/
theorem imagePixel_glyphCell_inverted (cfg : Config) (g y x : Nat) :
    imagePixel (glyphCell cfg .bg .fg g) y x = (imagePixel (glyphCell cfg .fg .bg g) y x).invert := by
  simp only [imagePixel, glyphCell_getElem, expandByte_getElem]
  split <;> rfl

theorem imagePixel_mod (img : CellImage) (y x : Nat) : imagePixel img (y % 16) (x % 16) = imagePixel img y x := by
  simp only [imagePixel, Nat.mod_mod]

theorem imagePixel_congr (img : CellImage) {y y' x x' : Nat} (hy : y % 16 = y' % 16) (hx : x % 16 = x' % 16) :
    imagePixel img y x = imagePixel img y' x' := by
  rw [← imagePixel_mod, hy, hx, imagePixel_mod]

/-- Settles O30: 1024 pixels are 64 cells (R173), and the cell there is the inverted one. -/
theorem invertedCellsAreTheOppositeOfNormalOnes : Obligations.InvertedCellsAreTheOppositeOfNormalOnes := by
  unfold Obligations.InvertedCellsAreTheOppositeOfNormalOnes
  refine fun s hs => ⟨_, exec_atlasBuild hs, fun x y hx hy => ?_⟩
  have hg : x / 16 < 64 := by omega
  have hcell : (x + 1024) / 16 = x / 16 + 64 := by omega
  calc surfacePixel (buildAtlas s.cfg) (x + 1024) y
      = imagePixel (glyphCell s.cfg .bg .fg (x / 16)) y (x + 1024) := by
        rw [surfacePixel, hcell, atlasPixel_buildAtlas_inverted s.cfg hg]
    _ = (imagePixel (glyphCell s.cfg .fg .bg (x / 16)) y x).invert := by
        rw [imagePixel_congr _ rfl (by omega : (x + 1024) % 16 = x % 16), imagePixel_glyphCell_inverted]
    _ = (surfacePixel (buildAtlas s.cfg) x y).invert := by
        rw [surfacePixel, atlasPixel_buildAtlas_normal s.cfg hg]

/-! ## What a code draws -/

theorem isHighCode_iff (c : Byte) : isHighCode c = true ↔ 0x80 ≤ c.toNat := by
  simp [isHighCode, BitVec.le_def]

theorem blitCell_low {c : Byte} (h : c.toNat < 0x80) (policy : HighCodePolicy) (atlas : Atlas) (old : ScreenCell) :
    blitCell policy atlas c old = .drawn atlas[cellIndex c] :=
  if_neg fun hc => absurd ((isHighCode_iff c).mp hc) (Nat.not_le_of_lt h)

theorem blitCell_unchanged {c : Byte} (h : 0x80 ≤ c.toNat) (atlas : Atlas) (old : ScreenCell) :
    blitCell .unchanged atlas c old = old :=
  if_pos ((isHighCode_iff c).mpr h)

theorem blitCell_mask7 (c : Byte) (atlas : Atlas) (old : ScreenCell) :
    blitCell .mask7 atlas c old = .drawn atlas[cellIndex c] :=
  ite_self _

theorem blitCell_blank {c : Byte} (h : 0x80 ≤ c.toNat) (atlas : Atlas) (old : ScreenCell) :
    blitCell .blank atlas c old = .drawn blankImage :=
  if_pos ((isHighCode_iff c).mpr h)

theorem cellIndex_and_mask7 (c : Byte) : cellIndex (c &&& 0x7F#8) = cellIndex c := by
  revert c; decide +kernel

theorem cellIndex_of_low {c : Byte} (h : c.toNat < 0x80) : (cellIndex c).val = c.toNat := by
  simp [cellIndex]; omega

theorem imagePixel_blankImage (y x : Nat) : imagePixel blankImage y x = .bg := by
  simp [imagePixel, blankImage]

/-- What REDRAW leaves in a cell (43_frame.md R200, R201). -/
theorem State.redrawn_cell (s : State) {row col : Nat} (hr : row < 24) (hc : col < 32) :
    s.redrawn.screen.cell row col = blitCell s.cfg.highCodePolicy s.atlas
      (s.mem.readByte (s.displayPointer + s.cfg.rowBaseOffset + BitVec.ofNat 16 (33 * row + col)))
      (s.screen.cell row col) := by
  rw [State.redrawn_screen, walk_cell _ _ _ _ _ row col hr hc]
  rfl

/-- REDRAW changes the screen, and presents it. -/
theorem State.redrawn_done_frame (s : State) : s.redrawn.done =
    { s with screen := s.redrawn.done.screen, presented := s.presented ++ [s.redrawn.done.screen], last := .done } := by
  unfold State.redrawn
  generalize walk s.cfg s.mem s.atlas s.displayPointer s.screen = w
  rfl

/-- Settles O31, by the two kinds of code and the three policies. -/
theorem redrawDrawsEveryCellFromItsCode : Obligations.RedrawDrawsEveryCellFromItsCode := by
  unfold Obligations.RedrawDrawsEveryCellFromItsCode
  intro s hs
  refine ⟨_, exec_redraw hs, s.redrawn_done_frame, fun row col hr hc c hcode => ?_⟩
  have hcell : s.redrawn.done.screen.cell row col =
      blitCell s.cfg.highCodePolicy s.atlas c (s.screen.cell row col) := by
    rw [State.done_screen, s.redrawn_cell hr hc, ← hcode]
  refine ⟨fun hlow => hcell.trans (blitCell_low hlow _ _ _), fun hhigh => ?_⟩
  rw [hcell]
  refine ⟨fun hp => ?_, fun hp => ?_, fun hp => ?_⟩
  · rw [hp, blitCell_unchanged hhigh]
  · simp only [hp, blitCell_mask7, cellIndex_and_mask7]
  · rw [hp, blitCell_blank hhigh]
    exact ⟨blankImage, rfl, imagePixel_blankImage⟩

/-- A pixel of a drawn cell is its image's (10_state.md R28). -/
theorem Screen.pixel_of_drawn {sc : Screen} {row col y x : Nat} {img : CellImage} (hy : y < 16) (hx : x < 16)
    (h : sc.cell row col = .drawn img) : sc.pixel (16 * row + y) (16 * col + x) = imagePixel img y x := by
  have hrow : (16 * row + y) / 16 = row := by omega
  have hcol : (16 * col + x) / 16 = col := by omega
  simp only [Screen.pixel, hrow, hcol, h]
  exact imagePixel_congr img (by omega) (by omega)

/-- Settles O32: the cell is the atlas cell of its code, and that stands 16 pixels per code from the left (R173). -/
theorem presentedPixelsAreAtlasPixels : Obligations.PresentedPixelsAreAtlasPixels := by
  unfold Obligations.PresentedPixelsAreAtlasPixels
  intro s row col y x hs hr hc hy hx c hcode hlow
  have hcell : s.redrawn.screen.cell row col = .drawn s.atlas[cellIndex c] := by
    rw [s.redrawn_cell hr hc, ← hcode, blitCell_low hlow]
  refine ⟨_, s.redrawn.screen, exec_redraw hs, State.redrawn_presented s, ?_⟩
  rw [Screen.pixel_of_drawn hy hx hcell]
  have hdiv : (16 * c.toNat + x) / 16 % 128 = cellIndex c := by rw [cellIndex_of_low hlow]; omega
  simp only [surfacePixel, atlasPixel, hdiv, Fin.getElem_fin]
  exact imagePixel_congr _ rfl (by omega)

/-- Whether BLIT draws, whatever the cell held (R202). -/
theorem blitCell_draws {policy : HighCodePolicy} {c : Byte} (h : policy ≠ .unchanged ∨ c.toNat < 0x80) (atlas : Atlas) :
    ∃ img, ∀ old, blitCell policy atlas c old = .drawn img := by
  by_cases hlow : c.toNat < 0x80
  · exact ⟨_, blitCell_low hlow policy atlas⟩
  · cases policy with
    | unchanged => exact absurd rfl (h.resolve_right hlow)
    | mask7 => exact ⟨_, blitCell_mask7 c atlas⟩
    | blank => exact ⟨_, blitCell_blank (Nat.le_of_not_lt hlow) atlas⟩

/-- A screen is its 24 by 32 cells. -/
theorem Screen.ext_cell {sc sc' : Screen} (h : ∀ row col, row < 24 → col < 32 → sc.cell row col = sc'.cell row col) :
    sc = sc' := by
  refine Vector.ext fun n hn => ?_
  have hcell (sc : Screen) : sc.cell (n / 32) (n % 32) = sc[n] := by
    rw [Screen.cell, Nat.div_add_mod, Vector.getElem?_eq_getElem hn, Option.getD_some]
  rw [← hcell sc, ← hcell sc', h _ _ (by omega) (by omega)]

/-- Settles O36: every code draws, whatever the old cell. -/
theorem fullRedrawForgetsTheOldScreen : Obligations.FullRedrawForgetsTheOldScreen := by
  unfold Obligations.FullRedrawForgetsTheOldScreen
  intro s sc hs hfull
  have hs' : { s with screen := sc }.DrawReady :=
    ⟨⟨⟨hs.noFault, hs.config, hs.live⟩, hs.memorySet⟩, hs.atlasSet⟩
  have hdraws : ∀ row col : Nat, row < 24 → col < 32 → ∃ img, s.redrawn.screen.cell row col = .drawn img ∧
      (State.redrawn { s with screen := sc }).screen.cell row col = .drawn img := fun row col hr hc => by
    obtain ⟨img, himg⟩ := blitCell_draws (hfull.imp_right fun h => h row col hr hc) s.atlas
    exact ⟨img, (s.redrawn_cell hr hc).trans (himg _), (State.redrawn_cell _ hr hc).trans (himg _)⟩
  have hscreen : s.redrawn.screen = (State.redrawn { s with screen := sc }).screen :=
    Screen.ext_cell fun row col hr hc => by
      obtain ⟨img, h₁, h₂⟩ := hdraws row col hr hc
      rw [h₁, h₂]
  refine ⟨_, _, exec_redraw hs, exec_redraw hs', hscreen, ?_, fun row col hr hc => ?_⟩
  · rw [State.done_presented, State.done_presented, State.redrawn_presented, State.redrawn_presented, hscreen]
  · obtain ⟨img, h, -⟩ := hdraws row col hr hc
    exact ⟨img, h⟩

/-- Settles O37, by the cells of row 0 and the first cell of row 1. -/
theorem zeroCodesDrawRowZeroAsGlyphZero : Obligations.ZeroCodesDrawRowZeroAsGlyphZero := by
  unfold Obligations.ZeroCodesDrawRowZeroAsGlyphZero
  rintro s base hs rfl hzero
  refine ⟨_, exec_redraw hs, fun k hk => ?_, State.redrawn_cell s (by decide) (by decide)⟩
  rw [State.done_screen, s.redrawn_cell (by decide) hk, Nat.mul_zero, Nat.zero_add, hzero k hk]
  rfl

/-! ## The walk as a loop -/

/-- The loop of R200 from pointer `p` and screen `sc` when it comes to display row `row`, column `col`: the running
address is that of the code there, and the cells before it hold what the walk leaves. -/
structure LoopAt (cfg : Config) (mem : Memory) (atlas : Atlas) (p : Addr) (sc : Screen) (row col : Nat)
    (now : Addr × Screen) : Prop where
  address : now.1 = codeAddr (p + cfg.rowBaseOffset) row col
  cells : ∀ r c, r < 24 → c < 32 →
    now.2.cell r c = if 32 * r + c < 32 * row + col then (walk cfg mem atlas p sc).cell r c else sc.cell r c

theorem codeAddr_add_one (base : Addr) (row col : Nat) :
    codeAddr base row col + 1#16 = codeAddr base row (col + 1) := by
  rw [codeAddr, codeAddr, BitVec.add_assoc, ← BitVec.ofNat_add, Nat.add_assoc]

section Loop
variable {cfg : Config} {mem : Memory} {atlas : Atlas} {p : Addr} {sc : Screen} {row col : Nat} {now : Addr × Screen}

theorem LoopAt.start : LoopAt cfg mem atlas p sc 0 0 (p + cfg.rowBaseOffset, sc) where
  address := (BitVec.add_zero _).symm
  cells := fun _ _ _ _ => (if_neg (Nat.not_lt_zero _)).symm

/-- One BLIT of the inner loop. -/
theorem LoopAt.blit (h : LoopAt cfg mem atlas p sc row col now) (hr : row < 24) (hc : col < 32) :
    LoopAt cfg mem atlas p sc row (col + 1)
      (now.1 + 1#16, now.2.blit cfg.highCodePolicy atlas (mem.readByte now.1) col row) where
  address := by rw [h.address, codeAddr_add_one]
  cells := fun r c hr' hc' => by
    rw [Screen.blit, Screen.cell_setCell _ _ _ _ _ _ hr hc hc']
    by_cases hcell : row = r ∧ col = c
    · obtain ⟨rfl, rfl⟩ := hcell
      rw [if_pos ⟨rfl, rfl⟩, if_pos (by omega), walk_cell _ _ _ _ _ _ _ hr hc, h.address, h.cells _ _ hr hc,
        if_neg (by omega)]
      rfl
    · have hiff : 32 * r + c < 32 * row + col ↔ 32 * r + c < 32 * row + (col + 1) := by omega
      rw [if_neg hcell, h.cells _ _ hr' hc']
      simp only [hiff]

theorem LoopAt.codes (h : LoopAt cfg mem atlas p sc row 0 now) (hr : row < 24) : ∀ n ≤ 32,
    LoopAt cfg mem atlas p sc row n ((List.range n).foldl
      (fun now col => (now.1 + 1#16, now.2.blit cfg.highCodePolicy atlas (mem.readByte now.1) col row)) now)
  | 0, _ => h
  | n + 1, hn => by
    rw [List.range_succ, List.foldl_append]
    exact (h.codes hr n (by omega)).blit hr (by omega)

/-- Skipping the terminator leads from the end of a row to the next (92 D13). -/
theorem LoopAt.skip (h : LoopAt cfg mem atlas p sc row 32 now) :
    LoopAt cfg mem atlas p sc (row + 1) 0 (now.1 + 1#16, now.2) where
  address := h.address ▸ codeAddr_add_one _ row 32
  cells := h.cells

theorem LoopAt.rows : ∀ n ≤ 24,
    LoopAt cfg mem atlas p sc n 0 ((List.range n).foldl
      (fun now row =>
        let after := loopRow cfg mem atlas row now
        (after.1 + 1#16, after.2)) (p + cfg.rowBaseOffset, sc))
  | 0, _ => .start
  | n + 1, hn => by
    rw [List.range_succ, List.foldl_append]
    exact ((LoopAt.rows n (by omega)).codes (by omega) 32 (Nat.le_refl _)).skip

end Loop

/-- Settles O35: after 24 rows every cell holds what the walk leaves. -/
theorem walkMeetsTheLoopOfTheSpec : Obligations.WalkMeetsTheLoopOfTheSpec := by
  unfold Obligations.WalkMeetsTheLoopOfTheSpec
  intro cfg mem atlas p sc
  refine Screen.ext_cell fun row col hr hc => ?_
  exact ((LoopAt.rows 24 (Nat.le_refl _)).cells row col hr hc).trans (if_pos (by omega))

end Sys2Proof.Machine
end

section
/-! SUPPORT. The slice, the drain and the end of a FRAME (43_frame.md), and what a quit ends. -/

namespace Sys2Proof.Machine

/-! ## The slice -/

theorem State.DrawReady.sliced_eq {s : State} (hs : s.DrawReady) :
    s.sliced = slice s.cfg.stepsPerFrame { s with phase := .running } := by
  rw [State.sliced, State.started_of_live hs.live]

/-- Settles O38, by the two values of `quit` after the drain. -/
theorem frameIsSliceThenDrainThenRedraw : Obligations.FrameIsSliceThenDrainThenRedraw := by
  unfold Obligations.FrameIsSliceThenDrainThenRedraw
  refine ⟨fun _ => rfl, fun _ _ => rfl, fun s u hs hslice => ?_⟩
  have hu : s.sliced = some u := hs.sliced_eq.trans hslice
  refine ⟨_, exec_frame hs hu, fun hq => ⟨?_, ?_⟩, fun hq => ?_⟩
  · rw [State.framed_of_not_quit hq, State.done_phase, State.redrawn_phase, State.drained_phase,
      State.sliced_phase_of_live hu hs.live]
  · rw [State.framed_of_not_quit hq, exec_redraw (hs.drained_of_sliced hu)]
  · rw [State.framed_of_quit hq]
    rfl

/-- A slice does not end exactly if one of its steps does not. -/
theorem slice_eq_none_iff : ∀ {n : Nat} {s : State}, slice n s = none ↔
    ∃ (m : Nat) (t : State), m < n ∧ slice m s = some t ∧ engineStep t.engine.step none t = none
  | 0, s => by simp [slice]
  | n + 1, s => by
    cases hstep : engineStep s.engine.step none s with
    | none => exact iff_of_true (by simp [slice, hstep]) ⟨0, s, Nat.succ_pos n, rfl, hstep⟩
    | some v =>
      have hslice (m : Nat) : slice (m + 1) s = slice m v := by simp [slice, hstep]
      rw [hslice, slice_eq_none_iff]
      constructor
      · rintro ⟨m, t, hm, ht, hnone⟩
        exact ⟨m + 1, t, Nat.succ_lt_succ hm, (hslice m).trans ht, hnone⟩
      · rintro ⟨m, t, hm, ht, hnone⟩
        cases m with
        | zero => cases ht; simp [hstep] at hnone
        | succ m => exact ⟨m, t, Nat.lt_of_succ_lt_succ hm, (hslice m).symm.trans ht, hnone⟩

theorem exec_frame_eq_hang_iff {s : State} (hs : s.DrawReady) :
    exec .frame s = .fault .engineHang ↔ s.sliced = none := by
  cases hu : s.sliced with
  | none => exact iff_of_true (exec_frame_hang hs hu) rfl
  | some u => simp [exec_frame hs hu]

/-- Settles O39: FRAME is stuck exactly if its slice does not end. -/
theorem frameIsStuckExactlyIfAnEngineStepNeverEnds : Obligations.FrameIsStuckExactlyIfAnEngineStepNeverEnds := by
  unfold Obligations.FrameIsStuckExactlyIfAnEngineStepNeverEnds
  exact fun s hs => (exec_frame_eq_hang_iff hs).trans slice_eq_none_iff

/-- An operation with no result ends by its report alone (log 9). -/
theorem State.done_last_eq {s t : State} (h : t.last = s.last) : { t.done with last := s.last } = t := by
  rw [← h]
  rfl

/-- Settles O41, transaction by transaction. -/
theorem engineTransactionsAreTheFiveOperations : Obligations.EngineTransactionsAreTheFiveOperations := by
  unfold Obligations.EngineTransactionsAreTheFiveOperations
  refine ⟨fun s a v k latest hs => ⟨⟨_, exec_fetch hs a, rfl⟩, ⟨_, exec_read hs a, rfl⟩,
      ⟨_, exec_write hs a v, ?write⟩, ⟨_, exec_portIn hs.toReady a, rfl⟩, ⟨_, exec_portOut hs.toReady a v, rfl⟩⟩,
    fun latest s => ⟨fun n => rfl, rfl, fun v k₁ k₂ => ⟨fun h => ?sameResult, fun h => ?otherResult⟩⟩,
    fun e k hk => ?step, fun k latest s t h => ?frame⟩
  case write => rw [State.done_last_eq (s.writeByte_last a v), engineStep]
  case sameResult => rw [engineStep, if_pos h]
  case otherResult => rw [engineStep, if_neg h]
  case step => rw [EngineAgent.step, hk, Option.getD_some]
  case frame =>
    rw [engineStep_frame k h]
    exact ⟨rfl, rfl⟩

/-! ## The drain -/

theorem State.pressKey_rows_congr {s t : State} (hr : s.rows = t.rows) (hc : s.cfg = t.cfg) (k : HostKey) :
    (s.pressKey k).rows = (t.pressKey k).rows :=
  State.rows_ext fun r => by rw [State.row_pressKey, State.row_pressKey, State.row_congr hr, hc]

theorem State.releaseKey_rows_congr {s t : State} (hr : s.rows = t.rows) (hc : s.cfg = t.cfg) (k : HostKey) :
    (s.releaseKey k).rows = (t.releaseKey k).rows :=
  State.rows_ext fun r => by rw [State.row_releaseKey, State.row_releaseKey, State.row_congr hr, hc]

/-- The rows a drain leaves depend on the rows and the key map alone. -/
theorem drainEvents_rows_congr : ∀ (es : List HostEvent) {s t : State}, s.rows = t.rows → s.cfg = t.cfg →
    (drainEvents es s).rows = (drainEvents es t).rows
  | [], _, _, hr, _ => hr
  | .keyDown k :: es, s, t, hr, hc =>
    drainEvents_rows_congr es (State.pressKey_rows_congr hr hc k) (by simpa using hc)
  | .keyUp k :: es, s, t, hr, hc =>
    drainEvents_rows_congr es (State.releaseKey_rows_congr hr hc k) (by simpa using hc)
  | .quit :: _, _, _, hr, _ => hr
  | .other _ :: es, _, _, hr, hc => drainEvents_rows_congr es hr hc

theorem State.drained_rows (u : State) : u.drained.rows = (drainEvents u.nextDrain u).rows :=
  drainEvents_rows_congr _ rfl rfl

/-- The first quit event ends the drain (R195; 92 D20). -/
theorem drainEvents_append_quit (rest : List HostEvent) : ∀ (es : List HostEvent) (s : State), HostEvent.quit ∉ es →
    drainEvents (es ++ .quit :: rest) s = { drainEvents es s with quit := true }
  | [], _, _ => rfl
  | .keyDown k :: es, s, h => drainEvents_append_quit rest es (s.pressKey k) (List.not_mem_of_not_mem_cons h)
  | .keyUp k :: es, s, h => drainEvents_append_quit rest es (s.releaseKey k) (List.not_mem_of_not_mem_cons h)
  | .quit :: _, _, h => absurd List.mem_cons_self h
  | .other _ :: es, s, h => drainEvents_append_quit rest es s (List.not_mem_of_not_mem_cons h)

theorem HostAgent.drain_of_lookup {h : HostAgent} {d : HostDrain} (hd : h.drains.lookup h.state = some d) :
    h.drain = d := by
  rw [HostAgent.drain, hd, Option.getD_some]

theorem State.drained_host (s : State) : s.drained.host = { s.host with state := s.host.drain.next } := by
  rw [State.drained, drainEvents_host]

/-- Settles O43, event by event, and for FRAME's drain by what the slice leaves alone. -/
theorem drainAppliesEventsInOrderUpToAQuit : Obligations.DrainAppliesEventsInOrderUpToAQuit := by
  unfold Obligations.DrainAppliesEventsInOrderUpToAQuit
  refine ⟨fun s k es hs => ⟨⟨_, exec_keyDown hs k, ?down⟩, ⟨_, exec_keyUp hs k, ?up⟩⟩, fun _ _ _ => rfl,
    fun es rest s h => drainEvents_append_quit rest es s h, fun _ => rfl, fun _ => rfl, fun s d hd => ?listed,
    fun s u hs hu => ⟨_, exec_frame hs hu, ?rows, ?quit⟩⟩
  case down => rw [State.done_last_eq (s.pressKey_last k), drainEvents]
  case up => rw [State.done_last_eq (s.releaseKey_last k), drainEvents]
  case listed =>
    have hdrain := HostAgent.drain_of_lookup hd
    rw [State.nextDrain, State.drained_host, hdrain]
    exact ⟨rfl, rfl⟩
  case rows => rw [State.done_rows, State.framed_rows, State.drained_rows, State.sliced_nextDrain hu]
  case quit => rw [State.sliced_framed_quit hu, drainEvents_quit, State.sliced_quit hu]

/-- Releasing the bits just pressed gives back a byte that held them. -/
theorem and_not_or_of_held {b m : Byte} (h : b &&& m = m) : b &&& ~~~m ||| m = b := by
  ext i hi
  have hbit := congrArg (fun x : Byte => x[i]) h
  simp only [BitVec.getElem_and] at hbit
  simp only [BitVec.getElem_or, BitVec.getElem_and, BitVec.getElem_not]
  revert hbit
  cases b[i] <;> cases m[i] <;> decide

/-- A key that is not held is as before after a press and a release (70_reset_and_hazards.md R265). -/
theorem State.releaseKey_pressKey_rows {s : State} {k : HostKey}
    (h : ∀ r, s.row r &&& keyMask s.cfg k r = keyMask s.cfg k r) : ((s.pressKey k).releaseKey k).rows = s.rows :=
  State.rows_ext fun r => by
    rw [State.row_releaseKey, State.row_pressKey, State.pressKey_cfg, and_not_or_of_held (h r)]

/-- Settles O47: the drain is a press and a release of a key that is not held. -/
theorem pressAndReleaseInOneDrainIsNeverSeen : Obligations.PressAndReleaseInOneDrainIsNeverSeen := by
  unfold Obligations.PressAndReleaseInOneDrainIsNeverSeen
  intro s u k e hs hu hk he hdrain hheld
  have hmask : ∀ r, s.row r &&& keyMask s.cfg k r = keyMask s.cfg k r := fun r => by
    rw [keyMask, if_neg hk, he]
    by_cases hr : r = scanRow e
    · subst hr; simp only [if_true]; exact hheld
    · simp [hr]
  refine ⟨_, exec_frame hs hu, ?_⟩
  have hrows := State.sliced_rows hu
  have hcfg := State.sliced_cfg hu
  rw [State.done_rows, State.framed_rows, State.drained_rows, State.sliced_nextDrain hu, hdrain]
  exact (drainEvents_rows_congr _ hrows hcfg).trans (State.releaseKey_pressKey_rows hmask)

/-! ## The end of the run -/

/-- In an ended run a step can only record a refusal (43_frame.md R198, log 12). -/
theorem step_of_terminal {s t : State} (hp : s.phase.isTerminal = true) (h : step s = .next t) :
    ∃ (rest : List Word) (r : Stop) (w : Word), t = State.raise { s with pending := rest } r (some w) := by
  obtain ⟨-, ⟨w, rest, -, hw⟩ | ⟨-, ho⟩⟩ := step_cases h
  · obtain ⟨i, -, hx⟩ | ⟨e, -, -, rfl⟩ := issueWord_cases hw
    · obtain ⟨-, ⟨r, rfl⟩ | ⟨hr, -, -⟩⟩ := exec_cases hx
      · exact ⟨rest, r, _, rfl⟩
      · simp [(State.commonRefusal_eq_none.mp hr).2] at hp
    · exact ⟨rest, _, w, rfl⟩
  · simp [(orchestrate_cases ho).1] at hp

/-- Settles O44: the FRAME ends in phase Quit, where a step can only record a refusal, after which there is none. -/
theorem quitEventEndsTheRunAfterItsSlice : Obligations.QuitEventEndsTheRunAfterItsSlice := by
  unfold Obligations.QuitEventEndsTheRunAfterItsSlice
  intro s u hs hu hquit
  have hq : u.drained.quit = true := by
    rw [State.drained_quit, State.sliced_nextDrain hu, List.contains_iff_mem.mpr hquit, Bool.or_true]
  refine ⟨_, exec_frame hs hu, ?_⟩
  rw [State.framed_of_quit hq]
  refine ⟨hq, rfl, u.drained_mem, u.drained_engine, u.drained_presented.trans (State.sliced_presented hu),
    fun t₁ h₁ => ?_⟩
  obtain ⟨rest, r, w, rfl⟩ := step_of_terminal rfl h₁
  refine ⟨rfl, rfl, fun t₂ h₂ => ?_⟩
  rw [step_of_fault (State.raise_fault _ _ _)] at h₂
  cases h₂

/-! ## The memory of a FRAME -/

/-- A cell at which an engine step issues no WRITE reads as before. -/
theorem engineStep_readByte (k : EngineStep) : ∀ {latest : Option Byte} {s t : State}, engineStep k latest s = some t →
    ∀ a ∉ stepStores k latest s, t.mem.readByte a = s.mem.readByte a := by
  induction k with
  | done n => intro _ s t h a _; cases h; rfl
  | hang => intro _ s t h; cases h
  | fetch a k ih => intro _ s t h; exact ih h
  | read a k ih => intro _ s t h; exact ih h
  | portIn p k ih => intro _ s t h; exact ih h
  | portOut p v k ih => intro _ s t h; exact ih h
  | write b v k ih =>
    intro _ s t h a ha
    obtain ⟨hne, hrest⟩ := List.ne_and_not_mem_of_not_mem_cons ha
    rw [ih h a hrest, State.readByte_writeByte, if_neg fun hab => hne hab.1]
  | ifResult v k₁ k₂ ih₁ ih₂ =>
    intro _ s t h
    simp only [engineStep] at h
    simp only [stepStores]
    split at h
    · next hv => simpa only [if_pos hv] using ih₁ h
    · next hv => simpa only [if_neg hv] using ih₂ h

theorem slice_readByte : ∀ {n : Nat} {s u : State}, slice n s = some u →
    ∀ a ∉ sliceStores n s, u.mem.readByte a = s.mem.readByte a
  | 0, _, _, h, _, _ => by cases h; rfl
  | n + 1, s, u, h, a, ha => by
    obtain ⟨m, hm, hu⟩ := slice_succ h
    simp only [sliceStores, hm, List.mem_append, not_or] at ha
    rw [slice_readByte hu a ha.2, engineStep_readByte _ hm a ha.1]

@[simp] theorem State.framed_engine (u : State) : u.framed.engine = u.engine := by
  rw [State.framed, State.frameEnd_engine, State.drained_engine]

@[simp] theorem State.framed_host (u : State) : u.framed.host = { u.host with state := u.host.drain.next } := by
  rw [State.framed, State.frameEnd_host, State.drained_host]

theorem State.sliced_engine {s u : State} (h : s.sliced = some u) :
    u.engine = { s.engine with state := u.engine.state } := by
  rw [State.sliced_frame h]

/-- Settles O46, by the frames of the slice and of what follows it, and the WRITEs of the slice. -/
theorem frameLeavesUnwrittenMemoryAlone : Obligations.FrameLeavesUnwrittenMemoryAlone := by
  unfold Obligations.FrameLeavesUnwrittenMemoryAlone
  intro s u hs hu
  refine ⟨_, exec_frame hs hu, ?_, fun a ha => ?_⟩
  · refine (State.mk.injEq ..).mpr ?_
    simp [State.sliced_setupDone hu, State.sliced_atlas hu, State.sliced_atlasBuilt hu, State.sliced_fault hu,
      State.sliced_cfg hu, State.sliced_host hu, State.sliced_pending hu, State.sliced_stage hu,
      ← State.sliced_engine hu]
  · rw [State.done_mem, State.framed_mem, slice_readByte hu a ha, State.started_mem]

end Sys2Proof.Machine
end

section
/-! SUPPORT. Boot (70_reset_and_hazards.md R261): the states after its operations, and the ways it fails (R264). -/

namespace Sys2Proof.Machine

theorem run_succ_of_step {s t : State} (h : step s = .next t) (k : Nat) : core.run (k + 1) s = core.run k t := by
  have hcore : core.step s = .next t := h
  simp only [Host.Core.run, hcore]

/-- After SETUP and KB_RESET of boot. -/
def State.keysReleased (cfg : Config) (engine : EngineAgent) (host : HostAgent) : State :=
  { State.powerOn cfg engine host with
    mem := setupMemory cfg, setupDone := true, stage := .screenSurface, last := .done }

/-- After ATLAS_BUILD of boot. -/
def State.atlasMade (cfg : Config) (engine : EngineAgent) (host : HostAgent) : State :=
  { State.keysReleased cfg engine host with atlas := buildAtlas cfg, atlasBuilt := true, stage := .atlasSurface }

section Boot
variable {cfg : Config} {engine : EngineAgent} {host : HostAgent} (hc : configOk cfg = true)
include hc

/-- Steps 1 to 3: the check, SETUP and KB_RESET. -/
theorem run_keysReleased (k : Nat) :
    core.run (k + 3) (State.powerOn cfg engine host) = core.run k (State.keysReleased cfg engine host) := by
  have hcheck : step (State.powerOn cfg engine host) = .next { State.powerOn cfg engine host with stage := .setup } :=
    congrArg Host.Outcome.next (if_pos hc)
  have hsetup : step { State.powerOn cfg engine host with stage := .setup } =
      .next { State.keysReleased cfg engine host with stage := .kbReset } :=
    exec_setup (s := { State.powerOn cfg engine host with stage := .kbReset }) ⟨rfl, hc, rfl⟩ rfl
  have hreset : step { State.keysReleased cfg engine host with stage := .kbReset } =
      .next (State.keysReleased cfg engine host) :=
    exec_kbReset (s := State.keysReleased cfg engine host) ⟨rfl, hc, rfl⟩
  rw [run_succ_of_step hcheck, run_succ_of_step hsetup, run_succ_of_step hreset]

/-- Steps 4 and 5, where the host creates the presentation surface. -/
theorem run_atlasMade (hs : host.screenSurfaceOk = true) (k : Nat) :
    core.run (k + 5) (State.powerOn cfg engine host) = core.run k (State.atlasMade cfg engine host) := by
  have hsurface : step (State.keysReleased cfg engine host) =
      .next { State.keysReleased cfg engine host with stage := .atlasBuild } := congrArg Host.Outcome.next (if_pos hs)
  have hbuild : step { State.keysReleased cfg engine host with stage := .atlasBuild } =
      .next (State.atlasMade cfg engine host) :=
    exec_atlasBuild (s := { State.keysReleased cfg engine host with stage := .atlasSurface }) ⟨rfl, hc, rfl⟩
  rw [run_keysReleased hc, run_succ_of_step hsurface, run_succ_of_step hbuild]

/-- A failed boot leaves a state in which the orchestrator has no step and FRAME is refused (R264). -/
theorem failSetup_ends {s : State} (hcfg : s.cfg = cfg) (hf : s.fault = none) (hp : s.pending = []) :
    step s.failSetup = .refused .runOver ∧
    exec .frame s.failSetup = .next (s.failSetup.raise (.refused .terminal) (some 0xB0000000#32)) := by
  subst hcfg
  constructor
  · rw [step_of_noFault (s := s.failSetup) hf, advance, State.failSetup_pending, hp]
    rfl
  · exact exec_of_commonRefusal (s := s.failSetup) hf (State.commonRefusal_of_terminal hc rfl) .frame

end Boot

/-- Settles O53: steps 6 and 7 follow, and the eighth step is a FRAME. -/
theorem bootReachesTheFrameLoop : Obligations.BootReachesTheFrameLoop := by
  unfold Obligations.BootReachesTheFrameLoop
  intro cfg engine host hc hscreen hatlas
  have hsurface : step (State.atlasMade cfg engine host) =
      .next { State.atlasMade cfg engine host with stage := .engineReset } := congrArg Host.Outcome.next (if_pos hatlas)
  refine ⟨{ State.atlasMade cfg engine host with stage := .loop }, ?_, ⟨⟨⟨rfl, hc, rfl⟩, rfl⟩, rfl⟩, rfl, rfl, rfl, rfl,
    rfl, rfl, State.powerOn_row cfg engine host, rfl, rfl⟩
  rw [run_atlasMade hc hscreen 2, run_succ_of_step hsurface 1]
  rfl

/-- Settles O54, by the three steps at which boot can fail. -/
theorem bootFailuresEndTheRun : Obligations.BootFailuresEndTheRun := by
  unfold Obligations.BootFailuresEndTheRun
  rintro cfg engine host s rfl
  refine ⟨fun hbad => ?config, fun hc hscreen => ?screen, fun hc hscreen hatlas => ?atlas⟩
  case config => exact congrArg Host.Outcome.next (if_neg (Bool.eq_false_iff.mp hbad))
  case screen =>
    have hfail : step (State.keysReleased cfg engine host) = .next (State.keysReleased cfg engine host).failSetup :=
      congrArg Host.Outcome.next (if_neg (Bool.eq_false_iff.mp hscreen))
    refine ⟨(State.keysReleased cfg engine host).failSetup, ?_, rfl, rfl, rfl, rfl, rfl, rfl,
      failSetup_ends hc rfl rfl rfl⟩
    rw [run_keysReleased hc, run_succ_of_step hfail]
    rfl
  case atlas =>
    have hfail : step (State.atlasMade cfg engine host) = .next (State.atlasMade cfg engine host).failSetup :=
      congrArg Host.Outcome.next (if_neg (Bool.eq_false_iff.mp hatlas))
    refine ⟨(State.atlasMade cfg engine host).failSetup, ?_, rfl, rfl, rfl, rfl, rfl, rfl,
      failSetup_ends hc rfl rfl rfl⟩
    rw [run_atlasMade hc hscreen, run_succ_of_step hfail]
    rfl

end Sys2Proof.Machine
end
